-- ==== Sys2Proof/Word.lean ====
section
/-! DEFINITION. The word types of the core: the widths 10_state.md gives its registers and memory cells.
Every value is unsigned (00_scope.md R7); arithmetic that wraps is `BitVec` arithmetic, exact arithmetic is `Nat`. -/

namespace Sys2Proof

/-- An 8-bit register, timer or memory byte (R13, R18, R19, R27). -/
abbrev Byte := BitVec 8

/-- A 16-bit value: `I`, `PC`, a stack slot, an instruction word (R15, R16, R21, R40). -/
abbrev Word := BitVec 16

/-- The 12-bit address operand `nnn` (R40). -/
abbrev Addr12 := BitVec 12

/-- A general register's number, 0 to 15; register 15 is `VF` (R13, R14). -/
abbrev Reg := Fin 16

/-- A key of the keypad, 0 to 15 (R93). -/
abbrev Key := Fin 16

/-- A sprite height, 0 to 15 (R40, R72). -/
abbrev Height := Fin 16

end Sys2Proof
end

