-- ==== Sys2Proof/Syntax.lean ====
section
/-! DEFINITION. The 35 instruction forms of 30_encoding.md R46, one constructor per row, with the operands R42 gives
each. -/

namespace Sys2Proof

inductive Instr where
  /-- `0nnn`, nnn neither 0E0 nor 0EE: `SYS addr` (R78). -/
  | sys (nnn : Addr12)
  /-- `00E0`: `CLS` (R71). -/
  | cls
  /-- `00EE`: `RET` (R81). -/
  | ret
  /-- `1nnn`: `JP addr` (R79). -/
  | jp (nnn : Addr12)
  /-- `2nnn`: `CALL addr` (R80). -/
  | call (nnn : Addr12)
  /-- `3xkk`: `SE Vx, byte` (R67). -/
  | seVxByte (x : Reg) (kk : Byte)
  /-- `4xkk`: `SNE Vx, byte` (R68). -/
  | sneVxByte (x : Reg) (kk : Byte)
  /-- `5xy0`: `SE Vx, Vy` (R69). -/
  | seVxVy (x y : Reg)
  /-- `6xkk`: `LD Vx, byte` (R55). -/
  | ldVxByte (x : Reg) (kk : Byte)
  /-- `7xkk`: `ADD Vx, byte` (R56). -/
  | addVxByte (x : Reg) (kk : Byte)
  /-- `8xy0`: `LD Vx, Vy` (R57). -/
  | ldVxVy (x y : Reg)
  /-- `8xy1`: `OR Vx, Vy` (R58). -/
  | orVxVy (x y : Reg)
  /-- `8xy2`: `AND Vx, Vy` (R59). -/
  | andVxVy (x y : Reg)
  /-- `8xy3`: `XOR Vx, Vy` (R60). -/
  | xorVxVy (x y : Reg)
  /-- `8xy4`: `ADD Vx, Vy` (R61). -/
  | addVxVy (x y : Reg)
  /-- `8xy5`: `SUB Vx, Vy` (R62). -/
  | subVxVy (x y : Reg)
  /-- `8xy6`: `SHR Vx (, Vy)` (R63); `y` is in the word and its meaning ignores it (R50). -/
  | shrVx (x y : Reg)
  /-- `8xy7`: `SUBN Vx, Vy` (R64). -/
  | subnVxVy (x y : Reg)
  /-- `8xyE`: `SHL Vx (, Vy)` (R65); `y` is in the word and its meaning ignores it (R50). -/
  | shlVx (x y : Reg)
  /-- `9xy0`: `SNE Vx, Vy` (R70). -/
  | sneVxVy (x y : Reg)
  /-- `Annn`: `LD I, addr` (R83). -/
  | ldIAddr (nnn : Addr12)
  /-- `Bnnn`: `JP V0, addr` (R82). -/
  | jpV0Addr (nnn : Addr12)
  /-- `Cxkk`: `RND Vx, byte` (R77). -/
  | rnd (x : Reg) (kk : Byte)
  /-- `Dxyn`: `DRW Vx, Vy, nibble` (R72). -/
  | drw (x y : Reg) (n : Height)
  /-- `Ex9E`: `SKP Vx` (R94). -/
  | skpVx (x : Reg)
  /-- `ExA1`: `SKNP Vx` (R95). -/
  | sknpVx (x : Reg)
  /-- `Fx07`: `LD Vx, DT` (R89). -/
  | ldVxDt (x : Reg)
  /-- `Fx0A`: `LD Vx, K` (R96). -/
  | ldVxK (x : Reg)
  /-- `Fx15`: `LD DT, Vx` (R90). -/
  | ldDtVx (x : Reg)
  /-- `Fx18`: `LD ST, Vx` (R91). -/
  | ldStVx (x : Reg)
  /-- `Fx1E`: `ADD I, Vx` (R84). -/
  | addIVx (x : Reg)
  /-- `Fx29`: `LD F, Vx` (R85). -/
  | ldFVx (x : Reg)
  /-- `Fx33`: `LD B, Vx` (R86). -/
  | ldBVx (x : Reg)
  /-- `Fx55`: `LD [I], Vx` (R87). -/
  | ldIVx (x : Reg)
  /-- `Fx65`: `LD Vx, [I]` (R88). -/
  | ldVxI (x : Reg)
  deriving DecidableEq, Repr

end Sys2Proof
end

