-- ==== Sys2Proof/Decode.lean ====
section
/-! DEFINITION. The decoder and the encoder, from the one format of 30_encoding.md R40 and the map of R46. The first
nibble selects the family; the low nibbles disambiguate families 0, 8, E and F, and families 5 and 9 admit only a low
nibble of 0 (R44, R47). -/

namespace Sys2Proof

/-- Why bytes are no instruction: fewer than two of them, or a word that no pattern of R46 matches (R44, R47). -/
inductive DecodeError where
  | truncated
  | invalidOpcode (w : Word)
  deriving DecidableEq, Repr

/-- `op`, the first nibble `w[15:12]` (R40). -/
def opField (w : Word) : BitVec 4 := w.extractLsb' 12 4

/-- `x = w[11:8]` (R40). -/
def xField (w : Word) : Reg := (w.extractLsb' 8 4).toFin

/-- `y = w[7:4]` (R40). -/
def yField (w : Word) : Reg := (w.extractLsb' 4 4).toFin

/-- `n = w[3:0]` as a sprite height (R40). -/
def nField (w : Word) : Height := (w.extractLsb' 0 4).toFin

/-- `n = w[3:0]` as the sub-opcode of families 5, 8 and 9 (R40). -/
def subField (w : Word) : BitVec 4 := w.extractLsb' 0 4

/-- `kk = w[7:0]` (R40). -/
def kkField (w : Word) : Byte := w.extractLsb' 0 8

/-- `nnn = w[11:0]` (R40). -/
def nnnField (w : Word) : Addr12 := w.extractLsb' 0 12

/-- Family 0: `CLS`, `RET`, and `SYS` for every other word (R48). -/
def decodeFamily0 (w : Word) : Except DecodeError Instr :=
  match nnnField w with
  | 0x0E0#12 => .ok .cls
  | 0x0EE#12 => .ok .ret
  | nnn => .ok (.sys nnn)

/-- Family 5: `SE Vx, Vy` with a low nibble of 0 only (R47, D10). -/
def decodeFamily5 (w : Word) : Except DecodeError Instr :=
  match subField w with
  | 0x0#4 => .ok (.seVxVy (xField w) (yField w))
  | _ => .error (.invalidOpcode w)

/-- Family 8: the nine register-to-register forms (R46 rows 11 to 19). -/
def decodeFamily8 (w : Word) : Except DecodeError Instr :=
  match subField w with
  | 0x0#4 => .ok (.ldVxVy (xField w) (yField w))
  | 0x1#4 => .ok (.orVxVy (xField w) (yField w))
  | 0x2#4 => .ok (.andVxVy (xField w) (yField w))
  | 0x3#4 => .ok (.xorVxVy (xField w) (yField w))
  | 0x4#4 => .ok (.addVxVy (xField w) (yField w))
  | 0x5#4 => .ok (.subVxVy (xField w) (yField w))
  | 0x6#4 => .ok (.shrVx (xField w) (yField w))
  | 0x7#4 => .ok (.subnVxVy (xField w) (yField w))
  | 0xE#4 => .ok (.shlVx (xField w) (yField w))
  | _ => .error (.invalidOpcode w)

/-- Family 9: `SNE Vx, Vy` with a low nibble of 0 only (R47, D10). -/
def decodeFamily9 (w : Word) : Except DecodeError Instr :=
  match subField w with
  | 0x0#4 => .ok (.sneVxVy (xField w) (yField w))
  | _ => .error (.invalidOpcode w)

/-- Family E: the two key tests (R46 rows 25 and 26). -/
def decodeFamilyE (w : Word) : Except DecodeError Instr :=
  match kkField w with
  | 0x9E#8 => .ok (.skpVx (xField w))
  | 0xA1#8 => .ok (.sknpVx (xField w))
  | _ => .error (.invalidOpcode w)

/-- Family F: the nine forms of R46 rows 27 to 35. -/
def decodeFamilyF (w : Word) : Except DecodeError Instr :=
  match kkField w with
  | 0x07#8 => .ok (.ldVxDt (xField w))
  | 0x0A#8 => .ok (.ldVxK (xField w))
  | 0x15#8 => .ok (.ldDtVx (xField w))
  | 0x18#8 => .ok (.ldStVx (xField w))
  | 0x1E#8 => .ok (.addIVx (xField w))
  | 0x29#8 => .ok (.ldFVx (xField w))
  | 0x33#8 => .ok (.ldBVx (xField w))
  | 0x55#8 => .ok (.ldIVx (xField w))
  | 0x65#8 => .ok (.ldVxI (xField w))
  | _ => .error (.invalidOpcode w)

/-- Decode one instruction word (R44, R46). Sixteen families are named; the last arm is reached by no word. -/
def decode (w : Word) : Except DecodeError Instr :=
  match opField w with
  | 0x0#4 => decodeFamily0 w
  | 0x1#4 => .ok (.jp (nnnField w))
  | 0x2#4 => .ok (.call (nnnField w))
  | 0x3#4 => .ok (.seVxByte (xField w) (kkField w))
  | 0x4#4 => .ok (.sneVxByte (xField w) (kkField w))
  | 0x5#4 => decodeFamily5 w
  | 0x6#4 => .ok (.ldVxByte (xField w) (kkField w))
  | 0x7#4 => .ok (.addVxByte (xField w) (kkField w))
  | 0x8#4 => decodeFamily8 w
  | 0x9#4 => decodeFamily9 w
  | 0xA#4 => .ok (.ldIAddr (nnnField w))
  | 0xB#4 => .ok (.jpV0Addr (nnnField w))
  | 0xC#4 => .ok (.rnd (xField w) (kkField w))
  | 0xD#4 => .ok (.drw (xField w) (yField w) (nField w))
  | 0xE#4 => decodeFamilyE w
  | 0xF#4 => decodeFamilyF w
  | _ => .error (.invalidOpcode w)

/-- The word of two bytes: the first is the high byte (20_memory.md R32). -/
def wordOfBytes (hi lo : Byte) : Word := BitVec.ofNat 16 (hi.toNat * 0x100 + lo.toNat)

/-- The two bytes of a word in the order memory holds them (R32). -/
def bytesOfWord (w : Word) : List Byte := [w.extractLsb' 8 8, w.extractLsb' 0 8]

/-- Decode the first instruction of a list of bytes and give the bytes after it. -/
def decodeBytes : List Byte → Except DecodeError (Instr × List Byte)
  | hi :: lo :: rest =>
    match decode (wordOfBytes hi lo) with
    | .ok i => .ok (i, rest)
    | .error e => .error e
  | _ => .error .truncated

/-- The word of a form with operand `nnn`: `op` in bits 15 to 12, `nnn` below (R40). -/
def wordNnn (op : Nat) (nnn : Addr12) : Word := BitVec.ofNat 16 (op * 0x1000 + nnn.toNat)

/-- The word of a form with operands `x` and `kk`; the two forms of family E and the nine of family F hold their
sub-opcode in `kk` (R40). -/
def wordXkk (op : Nat) (x : Reg) (kk : Byte) : Word := BitVec.ofNat 16 (op * 0x1000 + x.val * 0x100 + kk.toNat)

/-- The word of a form with operands `x` and `y` and a low nibble (R40). -/
def wordXyn (op : Nat) (x y : Reg) (n : Nat) : Word :=
  BitVec.ofNat 16 (op * 0x1000 + x.val * 0x100 + y.val * 0x10 + n)

/-- The instruction's word, from the patterns of R46. -/
def encode : Instr → Word
  | .sys nnn => wordNnn 0x0 nnn
  | .cls => 0x00E0
  | .ret => 0x00EE
  | .jp nnn => wordNnn 0x1 nnn
  | .call nnn => wordNnn 0x2 nnn
  | .seVxByte x kk => wordXkk 0x3 x kk
  | .sneVxByte x kk => wordXkk 0x4 x kk
  | .seVxVy x y => wordXyn 0x5 x y 0x0
  | .ldVxByte x kk => wordXkk 0x6 x kk
  | .addVxByte x kk => wordXkk 0x7 x kk
  | .ldVxVy x y => wordXyn 0x8 x y 0x0
  | .orVxVy x y => wordXyn 0x8 x y 0x1
  | .andVxVy x y => wordXyn 0x8 x y 0x2
  | .xorVxVy x y => wordXyn 0x8 x y 0x3
  | .addVxVy x y => wordXyn 0x8 x y 0x4
  | .subVxVy x y => wordXyn 0x8 x y 0x5
  | .shrVx x y => wordXyn 0x8 x y 0x6
  | .subnVxVy x y => wordXyn 0x8 x y 0x7
  | .shlVx x y => wordXyn 0x8 x y 0xE
  | .sneVxVy x y => wordXyn 0x9 x y 0x0
  | .ldIAddr nnn => wordNnn 0xA nnn
  | .jpV0Addr nnn => wordNnn 0xB nnn
  | .rnd x kk => wordXkk 0xC x kk
  | .drw x y n => wordXyn 0xD x y n.val
  | .skpVx x => wordXkk 0xE x 0x9E
  | .sknpVx x => wordXkk 0xE x 0xA1
  | .ldVxDt x => wordXkk 0xF x 0x07
  | .ldVxK x => wordXkk 0xF x 0x0A
  | .ldDtVx x => wordXkk 0xF x 0x15
  | .ldStVx x => wordXkk 0xF x 0x18
  | .addIVx x => wordXkk 0xF x 0x1E
  | .ldFVx x => wordXkk 0xF x 0x29
  | .ldBVx x => wordXkk 0xF x 0x33
  | .ldIVx x => wordXkk 0xF x 0x55
  | .ldVxI x => wordXkk 0xF x 0x65

/-- The instruction's bytes as memory holds them (R32). -/
def encodeBytes (i : Instr) : List Byte := bytesOfWord (encode i)

/-- The bits of a table row as one instruction word; the bits above `nbits` are 0. Every row of the table gives its 16
bits. -/
def tableWord (nbits w : Nat) : Word := BitVec.ofNat 16 (w % 2 ^ nbits)

/-- What the decoder reads from an instruction whose bits are `w`, numbered as spec/opcode_table.json numbers them. -/
def decodeTableWord (nbits w : Nat) : Option Instr :=
  match decodeBytes (bytesOfWord (tableWord nbits w)) with
  | .ok (i, _) => some i
  | .error _ => none

end Sys2Proof
end

