-- ==== Sys2Proof/Config.lean ====
section
/-! DEFINITION. The parameters of 00_scope.md R6, and the two values the spec leaves open: `keyPick` (the parameter
KEY_CHOICE, 92_eei_decisions.md D12) and `absentSlot` (a stack slot outside 0 to 15, which no rule describes). Both are
opaque constants: no proof can see what they are. -/

namespace Sys2Proof.Config

/-- `MEM_SIZE`: addresses 0 to 4095 (R6, R27). -/
def memSize : Nat := 4096

/-- `PROG_BASE`: where the program is loaded and where `PC` starts (R6, R16, R35). -/
def progBase : Nat := 0x200

/-- `MAX_PROG_LEN` (R6, R113). -/
def maxProgLen : Nat := 3584

/-- `FONT_BASE` and `FONT_LEN` (R6, R35). -/
def fontBase : Nat := 0

def fontLen : Nat := 80

/-- `DISP_W` and `DISP_H` (R6, R22). -/
def dispW : Nat := 64

def dispH : Nat := 32

/-- `STACK_SLOTS` (R6, R21); slot 0 is never used, so 15 calls nest. -/
def stackSlots : Nat := 16

/-- `FLAG_REG`: `VF` (R6, R14). -/
def flagReg : Reg := 15

/-- The LCG's constants (R6, R75). -/
def lcgMultiplier : Nat := 1103515245

def lcgIncrement : Nat := 12345

def lcgModulus : Nat := 2 ^ 31

/-- Glyph 0 of the font, the one the source fixes (R35, D13). -/
def glyph0 : List Byte := [0xF0, 0x90, 0x90, 0x90, 0xF0]

/-- Glyphs 1 to F of the standard font (93_implementation_defined.md G13). PRESUMED, unsafe: log entry 4. -/
def standardGlyphs : List Byte :=
  [0x20, 0x60, 0x20, 0x20, 0x70] ++ [0xF0, 0x10, 0xF0, 0x80, 0xF0] ++ [0xF0, 0x10, 0xF0, 0x10, 0xF0] ++
  [0x90, 0x90, 0xF0, 0x10, 0x10] ++ [0xF0, 0x80, 0xF0, 0x10, 0xF0] ++ [0xF0, 0x80, 0xF0, 0x90, 0xF0] ++
  [0xF0, 0x10, 0x20, 0x40, 0x40] ++ [0xF0, 0x90, 0xF0, 0x90, 0xF0] ++ [0xF0, 0x90, 0xF0, 0x10, 0xF0] ++
  [0xF0, 0x90, 0xF0, 0x90, 0x90] ++ [0xE0, 0x90, 0xE0, 0x90, 0xE0] ++ [0xF0, 0x80, 0x80, 0x80, 0xF0] ++
  [0xE0, 0x90, 0x90, 0x90, 0xE0] ++ [0xF0, 0x80, 0xF0, 0x80, 0xF0] ++ [0xF0, 0x80, 0xF0, 0x80, 0x80]

/-- The default instantiation of the parameter `FONT` (D13). -/
def defaultFont : List Byte := glyph0 ++ standardGlyphs

/-- The seed `State.reset` is constructed with: the one 95_test_vectors.md's start state uses. DESIGN CHOICE, unsafe:
log entry 3. -/
def resetSeed : BitVec 32 := 1

/-- The free part of KEY_CHOICE (D12): which key is preferred for a given set of down keys. DESIGN CHOICE, safe: log
entry 5. -/
opaque keyPick : BitVec 16 → Key

/-- What a stack slot outside 0 to 15 would hold, for `RET` in a state with `SP` above 15, which no run reaches
(R20, R21). DESIGN CHOICE, safe: log entry 6. -/
opaque absentSlot : Byte → Word

end Sys2Proof.Config
end

