-- ==== Sys2Proof/Machine/State.lean ====
section
/-! DEFINITION. The state of one core instance (10_state.md R11), the faults of 60_exceptions.md R97, and the state
after construction (R26, R112). -/

namespace Sys2Proof.Machine

/-- The six faults of R97. Each carries the info R97 records and, last, the address of the faulting instruction
(R98): together with the code that is the triple `Fault(code, info, addr)`. The core raises one by setting `HALT` in
the NEXT state (R99); `step` answers with it as an outcome when the core is already halted (R100). Safe: nothing is
claimed of a core after its fault that R99 and R100 do not say. -/
inductive Fault where
  /-- Code 1, raised by the decode: the word `w` matches no pattern (R44, R47). Safe. -/
  | invalidOpcode (w : Word) (addr : Word)
  /-- Code 2, raised by the fetch, `DRW`, `LD B, Vx`, `LD [I], Vx`, `LD Vx, [I]`: `a` is the lowest out-of-range
  address; and by `ADD I, Vx`: `a` is the sum that does not fit `I` (R30, R31, R43, R84). Safe. -/
  | outOfBoundsAccess (a : Nat) (addr : Word)
  /-- Code 3, raised by `CALL` with all 15 usable slots full (R80). Safe. -/
  | stackOverflow (addr : Word)
  /-- Code 4, raised by `RET` with an empty stack (R81). Safe. -/
  | stackUnderflow (addr : Word)
  /-- Code 5, raised by `LD F, Vx` for a value above 15 (R85). Safe. -/
  | invalidDigit (v : Byte) (addr : Word)
  /-- Code 6, raised by `SKP` and `SKNP` for a value above 15 (R93 to R95). Safe. -/
  | invalidKey (v : Byte) (addr : Word)
  deriving DecidableEq, Repr

/-- Why a step has no meaning. -/
inductive Refusal where
  /-- Raised by no arm: every instruction has its meaning. Safe. -/
  | notModelled (mnemonic : String)
  deriving DecidableEq, Repr

/-- `MEM` (R27), as the cells that differ from what an unlisted address reads as, by rising address. -/
abbrev Memory := List Host.Cell

/-- `DISP[x][y]`: 64 columns of 32 pixels (R11, R22). -/
abbrev Display := Vector (Vector Bool 32) 64

/-- The state of R11. `keys` is the model's own field: the argument of `step(keys)` (R93, R104), an input that the core
does not own (R12); log entry 1. -/
structure State where
  /-- `MEM` (R27). -/
  mem : Memory
  /-- `V0` to `VF` (R13, R14). -/
  v : Vector Byte 16
  /-- The index register `I` (R15). -/
  i : Word
  /-- The program counter `PC` (R16). -/
  pc : Word
  /-- The delay timer `DT` (R18). -/
  dt : Byte
  /-- The sound timer `ST` (R19). -/
  st : Byte
  /-- The stack pointer `SP` (R20). -/
  sp : Byte
  /-- The return-address stack `STACK` (R21). -/
  stack : Vector Word 16
  /-- The framebuffer `DISP` (R22). -/
  disp : Display
  /-- The random-source state `RNG` (R23). -/
  rng : BitVec 32
  /-- `HALT` (R24, R98). -/
  halt : Option Fault
  /-- The 16 key-down bits the host supplies for the next step: bit `k` is key `k` (R93). -/
  keys : BitVec 16
  deriving DecidableEq, Repr

/-- A display with every pixel off (R22). -/
def Display.blank : Display := Vector.replicate 64 (Vector.replicate 32 false)

/-- The core right after construction (R26, R112) with the empty program, the default font and seed 1, no key down:
the start state of 95_test_vectors.md (log entries 1, 3 and 4). -/
def State.reset : State where
  mem := []
  v := Vector.replicate 16 0
  i := 0
  pc := 0x200
  dt := 0
  st := 0
  sp := 0
  stack := Vector.replicate 16 0
  disp := Display.blank
  rng := Config.resetSeed
  halt := none
  keys := 0

end Sys2Proof.Machine
end

