-- ==== Sys2Proof/Machine/Memory.lean ====
section
/-! DEFINITION. `MEM` as one canonical list of cells: addresses strictly rising and below 4096, no cell equal to what
an unlisted address reads as. The bounds check of R30 stands in Machine/Ops.lean, before every access. -/

namespace Sys2Proof.Machine

/-- What an address that `MEM` does not list reads as: the contents at construction with an empty program, which are
the font at 0 to 79 and 0 elsewhere (R35, R112; glyphs 1 to F: log entry 4). -/
def Memory.background (a : Nat) : Byte := Config.defaultFont.getD a 0

/-- The byte at `a`. -/
def Memory.read : Memory → Nat → Byte
  | [], a => Memory.background a
  | (b, v) :: m, a => if a = b then v else Memory.read m a

/-- The cell for `v` at `a`, listed only where it differs from the background. -/
def Memory.cell (a : Nat) (v : Byte) : Memory := if v = Memory.background a then [] else [(a, v)]

/-- `MEM` with `v` at `a`; every other byte unchanged (R34). -/
def Memory.write : Memory → Nat → Byte → Memory
  | [], a, v => Memory.cell a v
  | (b, w) :: m, a, v =>
    if a < b then Memory.cell a v ++ (b, w) :: m
    else if a = b then Memory.cell a v ++ m
    else (b, w) :: Memory.write m a v

/-- The bytes `bs` written at `a`, `a + 1`, …, in ascending order (R34). -/
def Memory.writeBytes (m : Memory) (a : Nat) : List Byte → Memory
  | [] => m
  | b :: bs => Memory.writeBytes (m.write a b) (a + 1) bs

/-- The canonical form from address `lo` on. -/
def Memory.wfFrom (lo : Nat) : Memory → Bool
  | [] => true
  | (a, v) :: m =>
    decide (lo ≤ a) && decide (a < Config.memSize) && decide (v ≠ Memory.background a) && Memory.wfFrom (a + 1) m

/-- The canonical form: strictly rising addresses of the address space, no cell equal to the background. -/
def Memory.wf (m : Memory) : Bool := Memory.wfFrom 0 m

end Sys2Proof.Machine
end

