-- ==== Sys2Proof/Machine/Ops.lean ====
section
/-! DEFINITION. The named operations over registers, memory, display and random source, the bounds check of every
access (R30, R31), taking a fault (R98, R99), and the fetch and decode of a step (R43, R44). -/

namespace Sys2Proof.Machine

/-! ## Registers -/

/-- `V[x]` (R8). -/
def State.reg (s : State) (x : Reg) : Byte := s.v[x]

/-- `V[x] <- b` (R8). -/
def State.setReg (s : State) (x : Reg) (b : Byte) : State := { s with v := s.v.set x b }

/-- `I <- w`. -/
def State.setIndex (s : State) (w : Word) : State := { s with i := w }

/-- `PC <- w`. -/
def State.setPc (s : State) (w : Word) : State := { s with pc := w }

/-- `DT <- b`. -/
def State.setDelay (s : State) (b : Byte) : State := { s with dt := b }

/-- `ST <- b`. -/
def State.setSound (s : State) (b : Byte) : State := { s with st := b }

/-- `MEM <- m`. -/
def State.setMem (s : State) (m : Memory) : State := { s with mem := m }

/-- `DISP <- d`. -/
def State.setDisp (s : State) (d : Display) : State := { s with disp := d }

/-- `RNG <- r`. -/
def State.setRng (s : State) (r : BitVec 32) : State := { s with rng := r }

/-- The key-down bits the host supplies for the next step (R93, R104). -/
def State.setKeys (s : State) (k : BitVec 16) : State := { s with keys := k }

/-- The decode advance `PC <- PC + 2` (R45). -/
def State.advance (s : State) : State := s.setPc (s.pc + 2)

/-- The address of the executing instruction: the execute phase runs with `PC` already 2 beyond it (R16, R45). -/
def State.instrAddr (s : State) : Word := s.pc - 2

/-! ## The call stack -/

/-- `SP <- p` and `STACK <- v`. -/
def State.setStack (s : State) (p : Byte) (v : Vector Word 16) : State := { s with sp := p, stack := v }

/-- `STACK[SP]`; for `SP` above 15, which no run reaches, a free value (R21; log entry 6). -/
def State.stackTop (s : State) : Word :=
  if h : s.sp.toNat < 16 then s.stack[s.sp.toNat] else Config.absentSlot s.sp

/-- `SP <- SP + 1`, then `STACK[SP] <- w` (R80). The caller has checked that slot `SP + 1` exists; where it does not,
no slot is written. -/
def State.push (s : State) (w : Word) : State :=
  s.setStack (s.sp + 1) (s.stack.setIfInBounds (s.sp.toNat + 1) w)

/-- `SP <- SP - 1`; the slot keeps its value (R81). -/
def State.pop (s : State) : State := s.setStack (s.sp - 1) s.stack

/-! ## Faults -/

/-- The code of R97. -/
def Fault.code : Fault → Nat
  | .invalidOpcode _ _ => 1
  | .outOfBoundsAccess _ _ => 2
  | .stackOverflow _ => 3
  | .stackUnderflow _ => 4
  | .invalidDigit _ _ => 5
  | .invalidKey _ _ => 6

/-- The info R97 records; none for the stack faults. -/
def Fault.info : Fault → Option Nat
  | .invalidOpcode w _ => some w.toNat
  | .outOfBoundsAccess a _ => some a
  | .stackOverflow _ => none
  | .stackUnderflow _ => none
  | .invalidDigit v _ => some v.toNat
  | .invalidKey v _ => some v.toNat

/-- The address of the instruction that faulted (R98). -/
def Fault.addr : Fault → Word
  | .invalidOpcode _ a => a
  | .outOfBoundsAccess _ a => a
  | .stackOverflow a => a
  | .stackUnderflow a => a
  | .invalidDigit _ a => a
  | .invalidKey _ a => a

/-- Taking a fault: `HALT <- Some(f)` and nothing else (R98, R99). There is no handler and no return (R99, R100). -/
def State.takeFault (s : State) (f : Fault) : State := { s with halt := some f }

/-- A fault of the execute phase, `raise F(info)` (R8): `PC` keeps the decode advance and the recorded address is the
instruction's (R98, R99). -/
def raise (s : State) (f : Word → Fault) : Host.Outcome State Fault Refusal :=
  .next (s.takeFault (f s.instrAddr))

/-! ## Memory through the arbiter -/

/-- The lowest address of the `len` addresses from `base` that is not below 4096, if there is one (R30, R31). -/
def firstOutOfRange (base len : Nat) : Option Nat :=
  if len = 0 ∨ base + len ≤ Config.memSize then none else some (max base Config.memSize)

/-- All addresses are checked before the first access; a bad one raises `OutOfBoundsAccess` of the lowest and the
access does not happen (R31). Else `k` makes the accesses. -/
def withAccess (s : State) (base len : Nat) (k : Host.Outcome State Fault Refusal) :
    Host.Outcome State Fault Refusal :=
  match firstOutOfRange base len with
  | some a => raise s (.outOfBoundsAccess a)
  | none => k

/-! ## Fetch and decode -/

/-- The word at `PC`, big-endian (R32, R43); an address of it outside memory faults with the instruction's own
address (R43). -/
def fetch (s : State) : Except Fault Word :=
  match firstOutOfRange s.pc.toNat 2 with
  | some a => .error (.outOfBoundsAccess a s.pc)
  | none => .ok (wordOfBytes (s.mem.read s.pc.toNat) (s.mem.read (s.pc.toNat + 1)))

/-- Fetch, then decode (R43, R44, in the order of R101). -/
def fetchDecode (s : State) : Except Fault Instr :=
  match fetch s with
  | .error f => .error f
  | .ok w =>
    match decode w with
    | .ok i => .ok i
    | .error _ => .error (.invalidOpcode w s.pc)

/-! ## Display -/

/-- `PIX(x, y)` (R8, R22). -/
def Display.pixel (d : Display) (x : Fin 64) (y : Fin 32) : Bool := d[x][y]

/-- `PIX(x, y) <- b` (R8). -/
def Display.setPixel (d : Display) (x : Fin 64) (y : Fin 32) (b : Bool) : Display := d.set x (d[x].set y b)

/-- The column of sprite bit `dx`: coordinates wrap, never clip (R72). -/
def spriteColumn (cx : Byte) (dx : Nat) : Fin 64 := Fin.ofNat 64 (cx.toNat + dx)

/-- The row of sprite row `dy` (R72). -/
def spriteRow (cy : Byte) (dy : Nat) : Fin 32 := Fin.ofNat 32 (cy.toNat + dy)

/-- One sprite bit onto the display, with the collision so far: a bit of 1 toggles its pixel and collides if the pixel
was on; a bit of 0 does nothing. Bit 7 is column 0 (R72, R73). -/
def blitBit (cx cy : Byte) (row : Byte) (dy : Nat) (acc : Display × Bool) (dx : Nat) : Display × Bool :=
  if row.getLsbD (7 - dx) then
    let px := spriteColumn cx dx
    let py := spriteRow cy dy
    (acc.1.setPixel px py (!acc.1.pixel px py), acc.2 || acc.1.pixel px py)
  else acc

/-- The eight bits of one sprite row, left to right (R72). -/
def blitRow (mem : Memory) (base : Nat) (cx cy : Byte) (acc : Display × Bool) (dy : Nat) : Display × Bool :=
  (List.range 8).foldl (blitBit cx cy (mem.read (base + dy)) dy) acc

/-- The `n` rows of the sprite at `base` onto `d`: the display after and whether any pixel was turned off (R72). -/
def blit (mem : Memory) (base : Nat) (cx cy : Byte) (n : Nat) (d : Display) : Display × Bool :=
  (List.range n).foldl (blitRow mem base cx cy) (d, false)

/-! ## Random source -/

/-- `LcgNext`: `(s * 1103515245 + 12345) mod 2^31`, exactly (R75). The literals stand first so that no proof counts up
to them. -/
def lcgNext (r : BitVec 32) : BitVec 32 :=
  BitVec.ofNat 32 ((Config.lcgIncrement + Config.lcgMultiplier * r.toNat) % Config.lcgModulus)

/-- `LcgByte`: bits 15 to 8 (R76). -/
def lcgByte (r : BitVec 32) : Byte := r.extractLsb' 8 8

end Sys2Proof.Machine
end

