-- ==== Sys2Proof/Machine/Operands.lean ====
section
/-! DEFINITION. The operand forms: register values, the zero-extended `nnn` (R41), the effective address `I + k`
(45_index_memory.md), the skip (R66), and the keypad (R93, R96). -/

namespace Sys2Proof.Machine

/-- `zext_16(nnn)` (R41). -/
def addrOperand (nnn : Addr12) : Word := nnn.setWidth 16

/-- `V[x]` widened to 16 bits (R82). -/
def State.regWide (s : State) (x : Reg) : Word := (s.reg x).setWidth 16

/-- The effective address of the first byte of an access through `I`, as an exact number; the k-th byte is at this
plus `k` (R30). -/
def State.indexAddr (s : State) : Nat := s.i.toNat

/-- The skip rule: a condition that holds moves `PC` by 2 once more (R66). -/
def State.skipIf (s : State) (c : Bool) : State := if c then s.setPc (s.pc + 2) else s

/-- `KEY(k)`: is key `k` down (R8, R93). -/
def State.keyDown (s : State) (k : Key) : Bool := s.keys.getLsbD k

/-- The set `D` of down keys, lowest first (R96). -/
def downKeys (keys : BitVec 16) : List Key := (List.finRange 16).filter (fun k => keys.getLsbD k)

/-- `KEY_CHOICE(D)`: some member of `D`, none when no key is down. With one key down there is no choice; with several
it is `Config.keyPick`'s key where that is down and the lowest else, so it can be any choice (R96, D12; log entry
5). -/
def keyChoice (keys : BitVec 16) : Option Key :=
  match downKeys keys with
  | [] => none
  | [k] => some k
  | k :: _ => some (if keys.getLsbD (Config.keyPick keys) then Config.keyPick keys else k)

/-- Key `k`'s number as a register value. -/
def keyByte (k : Key) : Byte := BitVec.ofNat 8 k

/-- The digits `LD B, Vx` stores: hundreds, tens, ones (R86). -/
def bcdDigits (v : Byte) : List Byte :=
  [BitVec.ofNat 8 (v.toNat / 100), BitVec.ofNat 8 (v.toNat / 10 % 10), BitVec.ofNat 8 (v.toNat % 10)]

/-- `V[0]` to `V[x]` in order (R87). -/
def State.regsUpTo (s : State) (x : Reg) : List Byte := s.v.toList.take (x + 1)

/-- The registers with `V[k] <- MemRead(base + k, 1)` for `k` up to `x` (R88). -/
def State.loadRegs (s : State) (base : Nat) (x : Reg) : State :=
  { s with v := Vector.ofFn fun k => if k ≤ x then s.mem.read (base + k) else s.v[k] }

end Sys2Proof.Machine
end

