-- ==== Sys2Proof/Machine/Flags.lean ====
section
/-! DEFINITION. The results and flags of 40_alu.md's table (R52), from exact arithmetic, and the order in which a
result and a flag are written (R54). -/

namespace Sys2Proof.Machine

/-- A flag as the value of `VF`: 1 or 0. -/
def flagByte (c : Bool) : Byte := if c then 1 else 0

/-- The carry of `a + b`: `a + b >= 256` (R61). -/
def carry (a b : Byte) : Bool := decide (a.toNat + b.toNat ≥ 256)

/-- No borrow in `a - b`: `a >= b` (R62, R64). -/
def noBorrow (a b : Byte) : Bool := decide (a.toNat ≥ b.toNat)

/-- The bit a right shift by one moves out: bit 0 (R63). -/
def shiftedOutRight (a : Byte) : Bool := a.getLsbD 0

/-- The bit a left shift by one moves out: bit 7 (R65). -/
def shiftedOutLeft (a : Byte) : Bool := a.getLsbD 7

/-- The result into `V[x]` first, the flag into `VF` last: with `x = 15` the flag is what `VF` keeps (R54; conflict
C1). -/
def State.writeResultFlag (s : State) (x : Reg) (r : Byte) (f : Bool) : State :=
  (s.setReg x r).setReg Config.flagReg (flagByte f)

end Sys2Proof.Machine
end

