-- ==== Sys2Proof/Machine/Control.lean ====
section
/-! DEFINITION. 44_control.md: `SYS`, jumps, calls and returns. `PC` already holds the instruction's address plus 2
(R45). -/

namespace Sys2Proof.Machine

/-- `SYS addr`: nothing (R78, R48). -/
def execSys (_nnn : Addr12) (s : State) : Host.Outcome State Fault Refusal :=
  .next s

/-- `JP addr` (R79). -/
def execJp (nnn : Addr12) (s : State) : Host.Outcome State Fault Refusal :=
  .next (s.setPc (addrOperand nnn))

/-- `CALL addr`: a full stack faults before anything is pushed; the pushed value is the already advanced `PC`
(R80; conflict C3). -/
def execCall (nnn : Addr12) (s : State) : Host.Outcome State Fault Refusal :=
  if s.sp.toNat + 1 ≥ Config.stackSlots then raise s .stackOverflow
  else .next ((s.push s.pc).setPc (addrOperand nnn))

/-- `RET`: an empty stack faults (R81). -/
def execRet (s : State) : Host.Outcome State Fault Refusal :=
  if s.sp = 0 then raise s .stackUnderflow
  else .next ((s.setPc s.stackTop).pop)

/-- `JP V0, addr`: the exact sum, not reduced to 12 bits (R82). -/
def execJpV0Addr (nnn : Addr12) (s : State) : Host.Outcome State Fault Refusal :=
  .next (s.setPc (addrOperand nnn + s.regWide 0))

end Sys2Proof.Machine
end

