-- ==== Sys2Proof/Machine/Draw.lean ====
section
/-! DEFINITION. 42_display.md: the two instructions that change the framebuffer. -/

namespace Sys2Proof.Machine

/-- `CLS`: every pixel off (R71). -/
def execCls (s : State) : Host.Outcome State Fault Refusal :=
  .next (s.setDisp Display.blank)

/-- `DRW Vx, Vy, nibble`: all sprite addresses checked first, then the XOR blit at the coordinates read before `VF` is
written, then `VF` the collision (R72, R73). A height of 0 makes no access and cannot fault (R72; conflict C5). -/
def execDrw (x y : Reg) (n : Height) (s : State) : Host.Outcome State Fault Refusal :=
  withAccess s s.indexAddr n (
    let drawn := blit s.mem s.indexAddr (s.reg x) (s.reg y) n s.disp
    .next ((s.setDisp drawn.1).setReg Config.flagReg (flagByte drawn.2)))

end Sys2Proof.Machine
end

