-- ==== Sys2Proof/Machine/IndexMemory.lean ====
section
/-! DEFINITION. 45_index_memory.md: the index register, the font lookup, BCD and the bulk store and load. No access
changes `I`. -/

namespace Sys2Proof.Machine

/-- `LD I, addr` (R83). -/
def execLdIAddr (nnn : Addr12) (s : State) : Host.Outcome State Fault Refusal :=
  .next (s.setIndex (addrOperand nnn))

/-- `ADD I, Vx`: the exact sum; one that does not fit 16 bits faults with `I` unchanged; `VF` is not written (R84). -/
def execAddIVx (x : Reg) (s : State) : Host.Outcome State Fault Refusal :=
  if s.i.toNat + (s.reg x).toNat > 0xFFFF then raise s (.outOfBoundsAccess (s.i.toNat + (s.reg x).toNat))
  else .next (s.setIndex (BitVec.ofNat 16 (s.i.toNat + (s.reg x).toNat)))

/-- `LD F, Vx`: the address of digit `V[x]`'s glyph; a value above 15 faults (R85). -/
def execLdFVx (x : Reg) (s : State) : Host.Outcome State Fault Refusal :=
  if (s.reg x).toNat > 15 then raise s (.invalidDigit (s.reg x))
  else .next (s.setIndex (BitVec.ofNat 16 (5 * (s.reg x).toNat)))

/-- `LD B, Vx`: the three decimal digits at `I`, `I + 1`, `I + 2` (R86). -/
def execLdBVx (x : Reg) (s : State) : Host.Outcome State Fault Refusal :=
  withAccess s s.indexAddr 3 (.next (s.setMem (s.mem.writeBytes s.indexAddr (bcdDigits (s.reg x)))))

/-- `LD [I], Vx`: `V[0]` to `V[x]` at `I` on (R87). -/
def execLdIVx (x : Reg) (s : State) : Host.Outcome State Fault Refusal :=
  withAccess s s.indexAddr (x + 1) (.next (s.setMem (s.mem.writeBytes s.indexAddr (s.regsUpTo x))))

/-- `LD Vx, [I]`: the bytes at `I` on into `V[0]` to `V[x]` (R88). -/
def execLdVxI (x : Reg) (s : State) : Host.Outcome State Fault Refusal :=
  withAccess s s.indexAddr (x + 1) (.next (s.loadRegs s.indexAddr x))

end Sys2Proof.Machine
end

