-- ==== Sys2Proof/Machine/Random.lean ====
section
/-! DEFINITION. 43_random.md: the one instruction that reads or advances the random source. -/

namespace Sys2Proof.Machine

/-- `RND Vx, byte`: the source advances, whatever the mask, and `V[x]` is its masked byte (R77). -/
def execRnd (x : Reg) (kk : Byte) (s : State) : Host.Outcome State Fault Refusal :=
  .next ((s.setRng (lcgNext s.rng)).setReg x (lcgByte (lcgNext s.rng) &&& kk))

end Sys2Proof.Machine
end

