-- ==== Sys2Proof/Machine/TimersKeypad.lean ====
section
/-! DEFINITION. 46_timers_keypad.md: the timer moves, the host's tick, the two key tests and the wait for a key. -/

namespace Sys2Proof.Machine

/-- `LD Vx, DT` (R89). -/
def execLdVxDt (x : Reg) (s : State) : Host.Outcome State Fault Refusal :=
  .next (s.setReg x s.dt)

/-- `LD DT, Vx` (R90). -/
def execLdDtVx (x : Reg) (s : State) : Host.Outcome State Fault Refusal :=
  .next (s.setDelay (s.reg x))

/-- `LD ST, Vx` (R91). -/
def execLdStVx (x : Reg) (s : State) : Host.Outcome State Fault Refusal :=
  .next (s.setSound (s.reg x))

/-- One decrement, floored at zero (R92). -/
def countDown (b : Byte) : Byte := if b = 0 then 0 else b - 1

/-- The host operation `tick`, in any state, halted or not (R92, D23). -/
def tick (s : State) : State := (s.setDelay (countDown s.dt)).setSound (countDown s.st)

/-- A key test: a value above 15 names no key and faults; else skip if the key's level is `down` (R93 to R95). -/
def keyTest (x : Reg) (down : Bool) (s : State) : Host.Outcome State Fault Refusal :=
  if h : (s.reg x).toNat < 16 then .next (s.skipIf (s.keyDown ⟨(s.reg x).toNat, h⟩ == down))
  else raise s (.invalidKey (s.reg x))

/-- `SKP Vx` (R94). -/
def execSkpVx (x : Reg) (s : State) : Host.Outcome State Fault Refusal :=
  keyTest x true s

/-- `SKNP Vx` (R95). -/
def execSknpVx (x : Reg) (s : State) : Host.Outcome State Fault Refusal :=
  keyTest x false s

/-- `LD Vx, K`: with no key down the decode advance is undone, so the step changes nothing and the next one runs this
instruction again; with keys down `V[x]` is one of them (R96). -/
def execLdVxK (x : Reg) (s : State) : Host.Outcome State Fault Refusal :=
  match keyChoice s.keys with
  | none => .next (s.setPc s.instrAddr)
  | some k => .next (s.setReg x (keyByte k))

end Sys2Proof.Machine
end

