-- ==== Sys2Proof/Machine/Step.lean ====
section
/-! DEFINITION. One step (30_encoding.md R45), in the order of 60_exceptions.md R101: `HALT`, fetch bounds, decode,
advance, execute. A fault raised now is a NEXT state with `HALT` set, as R98 and R99 describe it; a core already halted
answers with that fault as its outcome and changes nothing (R100). Log entry 2. -/

namespace Sys2Proof.Machine

/-- `step(keys)`, with `keys` in the state (R45, R93). -/
def step (s : State) : Host.Outcome State Fault Refusal :=
  match s.halt with
  | some f => .fault f
  | none =>
    match fetchDecode s with
    | .error f => .next (s.takeFault f)
    | .ok i => exec i s.advance

/-- `s` with the instruction whose bits are `w` at `PC`: its high byte at `PC`, its low byte at `PC + 1` (R32). Where
`PC` leaves no room for two bytes below 4096 nothing can be fetched (R43) and nothing is placed (log entry 8). -/
def State.withFetchWord (s : State) (nbits w : Nat) : State :=
  match firstOutOfRange s.pc.toNat 2 with
  | some _ => s
  | none => s.setMem (s.mem.writeBytes s.pc.toNat (bytesOfWord (tableWord nbits w)))

end Sys2Proof.Machine
end

