-- ==== Sys2Proof/Machine/HostPort.lean ====
section
/-! DEFINITION. The operations by which the host drives a core instance (60_exceptions.md R104 to R106,
70_reset_and_hazards.md R112, R113), and sessions of them in any order (R118). `tick` stands in
Machine/TimersKeypad.lean. Discarding an instance leaves no state to describe (R11, R104). -/

namespace Sys2Proof.Machine

/-- A table that may stand for the parameter `FONT`: 80 bytes that begin with the glyph the source fixes (D13). -/
def fontAdmissible (font : List Byte) : Bool :=
  font.length == Config.fontLen && font.take 5 == Config.glyph0

/-- `MEM` at construction: zero, then the font at 0, then the program at 512 (R35, R112). A font of 80 bytes replaces
the background's own. -/
def constructMemory (font program : List Byte) : Memory :=
  (Memory.writeBytes [] Config.fontBase font).writeBytes Config.progBase program

/-- `new(program_bytes, seed)` over the parameter `FONT` (R112). A program longer than 3584 bytes has no instance
(R113), nor has a table that is no font. -/
def construct (font program : List Byte) (seed : BitVec 32) : Option State :=
  if fontAdmissible font = true ∧ program.length ≤ Config.maxProgLen then
    some { State.reset with mem := constructMemory font program, rng := seed }
  else none

/-- `get_pixel(x, y)`: none outside 0 to 63 and 0 to 31, where the operation is not defined (R106, D24). -/
def getPixel (s : State) (x y : Nat) : Option Bool :=
  if hx : x < 64 then
    if hy : y < 32 then some (s.disp.pixel ⟨x, hx⟩ ⟨y, hy⟩) else none
  else none

/-- `width()` (R106). -/
def displayWidth : Nat := Config.dispW

/-- `height()` (R106). -/
def displayHeight : Nat := Config.dispH

/-- The outcome of a host step (R105). `refused` is answered by no state: every instruction has its meaning. -/
inductive StepReport where
  | executed (a : Word) (ins : Instr)
  | awaitingKey (a : Word) (ins : Instr)
  | fault (f : Fault)
  | refused (r : Refusal)
  deriving DecidableEq, Repr

/-- Does this instruction wait for a key in a step with these key-down bits (R96)? -/
def waitsForKey (i : Instr) (keys : BitVec 16) : Bool :=
  match i with
  | .ldVxK _ => (keyChoice keys).isNone
  | _ => false

/-- The outcome of a step that left `t` from `s`: the fault that is now in `HALT`, else the trace record of the
instruction at `s.pc` (R105, D26). -/
def reportOf (s t : State) : StepReport :=
  match t.halt, fetchDecode s with
  | some f, _ => .fault f
  | none, .error f => .fault f
  | none, .ok i => if waitsForKey i s.keys then .awaitingKey s.pc i else .executed s.pc i

/-- `step(keys)` as the host sees it: one outcome, and the state after (R104, R105). -/
def hostStep (keys : BitVec 16) (s : State) : StepReport × State :=
  match step (s.setKeys keys) with
  | .next t => (reportOf (s.setKeys keys) t, t)
  | .fault f => (.fault f, s.setKeys keys)
  | .refused r => (.refused r, s.setKeys keys)

/-- The operations the host may perform on an instance (R104). -/
inductive HostOp where
  | step (keys : BitVec 16)
  | tick
  | getPixel (x y : Nat)
  | width
  | height
  deriving DecidableEq, Repr

/-- What an operation answers. `pixel none` is a call outside the interface (R106, D24). -/
inductive HostReply where
  | outcome (r : StepReport)
  | done
  | pixel (b : Option Bool)
  | size (n : Nat)
  deriving DecidableEq, Repr

/-- One host operation: its answer and the state after. -/
def hostApply (op : HostOp) (s : State) : HostReply × State :=
  match op with
  | .step keys => (.outcome (hostStep keys s).1, (hostStep keys s).2)
  | .tick => (.done, tick s)
  | .getPixel x y => (.pixel (getPixel s x y), s)
  | .width => (.size displayWidth, s)
  | .height => (.size displayHeight, s)

/-- A session: any list of operations, one after another, so that every interleaving of `tick`, `step` and the queries
is a run of the model (R37, R118, ID8). -/
def runSession : List HostOp → State → List HostReply × State
  | [], s => ([], s)
  | op :: ops, s =>
    ((hostApply op s).1 :: (runSession ops (hostApply op s).2).1, (runSession ops (hostApply op s).2).2)

end Sys2Proof.Machine
end

