-- ==== Sys2Proof/Safety.lean ====
section
/-! DEFINITION. The terms statements use: the parts of the state and what it means that a part reads the same, the
invariant of every run, and what a sprite covers. -/

namespace Sys2Proof.Machine

/-- The parts of the state (R11), and the host's key-down bits. -/
inductive Part where
  | memory | regs | index | counter | delay | sound | pointer | stack | display | random | halt | keys
  deriving DecidableEq, Repr

/-- The part reads in `t` as it does in `s`: every byte of memory, every register, every slot, every pixel. -/
def Part.same (s t : State) : Part → Prop
  | .memory => ∀ a, t.mem.read a = s.mem.read a
  | .regs => ∀ r, t.reg r = s.reg r
  | .index => t.i = s.i
  | .counter => t.pc = s.pc
  | .delay => t.dt = s.dt
  | .sound => t.st = s.st
  | .pointer => t.sp = s.sp
  | .stack => ∀ k : Fin 16, t.stack[k] = s.stack[k]
  | .display => ∀ x y, t.disp.pixel x y = s.disp.pixel x y
  | .random => t.rng = s.rng
  | .halt => t.halt = s.halt
  | .keys => t.keys = s.keys

/-- Every part but the listed ones reads the same. -/
def Frame (changed : List Part) (s t : State) : Prop := ∀ p, p ∉ changed → p.same s t

/-- Every register but the listed ones reads the same. -/
def OtherRegs (changed : List Reg) (s t : State) : Prop := ∀ r, r ∉ changed → t.reg r = s.reg r

/-- Every byte of memory outside the `len` bytes from `base` reads the same. -/
def OtherBytes (base len : Nat) (s t : State) : Prop :=
  ∀ a, (a < base ∨ base + len ≤ a) → t.mem.read a = s.mem.read a

/-- The invariant of every run: memory is canonical and lies in 0 to 4095 (R27); `PC` is at most 0x10FE (R17); `SP` is
at most 15 (R20); every stack slot is at most 4096 (R80); and a halted core's `PC` is the faulting instruction's
address or 2 beyond it (R99). -/
def State.Inv (s : State) : Prop :=
  s.mem.wf = true ∧ s.pc.toNat ≤ 0x10FE ∧ s.sp.toNat ≤ 15 ∧ (∀ k : Fin 16, s.stack[k].toNat ≤ 4096) ∧
    ∀ f, s.halt = some f → s.pc = f.addr ∨ s.pc = f.addr + 2

/-- The step of `s` reaches the execute phase of `i`: the core runs, `PC` and `PC + 1` are addresses of memory, and the
two bytes there decode to `i` (R43 to R45). -/
def Executes (s : State) (i : Instr) : Prop :=
  s.halt = none ∧ s.pc.toNat + 1 < 4096 ∧
    decodeBytes [s.mem.read s.pc.toNat, s.mem.read (s.pc.toNat + 1)] = .ok (i, [])

/-- The step of `s` moves `PC` by 4 when `c` holds and by 2 when it does not, as exact numbers, and changes nothing
else (R66). -/
def StepSkips (s : State) (c : Bool) : Prop :=
  ∃ t, step s = .next t ∧ t.pc.toNat = s.pc.toNat + (if c then 4 else 2) ∧ Frame [.counter] s t

/-- `(px, py)` is the pixel of a 1 bit of the sprite of `n` rows at `I`, drawn at column `cx` and row `cy`: row `dy` is
the byte at `I + dy`, and its bit `7 - dx` is column `dx` (R72). -/
def SpriteCovers (s : State) (cx cy : Byte) (n : Height) (px : Fin 64) (py : Fin 32) : Prop :=
  ∃ dx dy : Nat, dx < 8 ∧ dy < n.val ∧ px.val = (cx.toNat + dx) % 64 ∧ py.val = (cy.toNat + dy) % 32 ∧
    (s.mem.read (s.i.toNat + dy)).getLsbD (7 - dx) = true

/-- The words R47 lists as matching no pattern, by family. -/
def illegalWord (w : Nat) : Bool :=
  match w / 4096 with
  | 0x5 => w % 16 != 0
  | 0x8 => [8, 9, 0xA, 0xB, 0xC, 0xD, 0xF].contains (w % 16)
  | 0x9 => w % 16 != 0
  | 0xE => !([0x9E, 0xA1].contains (w % 256))
  | 0xF => !([0x07, 0x0A, 0x15, 0x18, 0x1E, 0x29, 0x33, 0x55, 0x65].contains (w % 256))
  | _ => false

/-- Does the execute phase of this instruction write `VF`: as a flag (R14, R73), or as its destination register? -/
def mayWriteVF : Instr → Bool
  | .addVxVy _ _ | .subVxVy _ _ | .subnVxVy _ _ | .shrVx _ _ | .shlVx _ _ | .drw _ _ _ => true
  | .ldVxByte x _ | .addVxByte x _ | .ldVxVy x _ | .orVxVy x _ | .andVxVy x _ | .xorVxVy x _ | .rnd x _
  | .ldVxDt x | .ldVxK x | .ldVxI x => x == Config.flagReg
  | .sys _ | .cls | .ret | .jp _ | .call _ | .seVxByte _ _ | .sneVxByte _ _ | .seVxVy _ _ | .sneVxVy _ _
  | .ldIAddr _ | .jpV0Addr _ | .skpVx _ | .sknpVx _ | .ldDtVx _ | .ldStVx _ | .addIVx _ | .ldFVx _
  | .ldBVx _ | .ldIVx _ => false

/-- Does this instruction query the keypad (R108)? -/
def readsKeys : Instr → Bool
  | .skpVx _ | .sknpVx _ | .ldVxK _ => true
  | .sys _ | .cls | .ret | .jp _ | .call _ | .seVxByte _ _ | .sneVxByte _ _ | .seVxVy _ _ | .ldVxByte _ _
  | .addVxByte _ _ | .ldVxVy _ _ | .orVxVy _ _ | .andVxVy _ _ | .xorVxVy _ _ | .addVxVy _ _ | .subVxVy _ _
  | .shrVx _ _ | .subnVxVy _ _ | .shlVx _ _ | .sneVxVy _ _ | .ldIAddr _ | .jpV0Addr _ | .rnd _ _
  | .drw _ _ _ | .ldVxDt _ | .ldDtVx _ | .ldStVx _ | .addIVx _ | .ldFVx _ | .ldBVx _ | .ldIVx _
  | .ldVxI _ => false

end Sys2Proof.Machine
end

