-- ==== Sys2Proof/Certificates/Slice0/Obligations.lean ====
section
/-! DEFINITION. The statements for the provers. Each docstring names the rules or sections of spec/ it formalises;
where a clause rests on a decision the spec marks as its own, or on a log entry of the model, the docstring says so.
`exec` runs from the state after the decode advance, so `s.pc` is the instruction's address plus 2 there (R9, R45). -/

open Sys2Proof Sys2Proof.Machine

/-! ## Construction and reset -/

/-- R26 and R112 for the empty program, with conflict C4's `PC`: what `State.reset` holds. Bytes 0 to 4 are the glyph
the source fixes (R35); glyphs 1 to F and the seed are the model's choices (log entries 3 and 4) and not stated. -/
def Obligations.ResetLeavesTheStatedValues : Prop :=
  (∀ r, State.reset.reg r = 0) ∧ State.reset.i = 0 ∧ State.reset.pc = 0x200 ∧ State.reset.dt = 0 ∧
    State.reset.st = 0 ∧ State.reset.sp = 0 ∧ (∀ k : Fin 16, State.reset.stack[k] = 0) ∧
    (∀ x y, State.reset.disp.pixel x y = false) ∧ State.reset.halt = none ∧
    State.reset.mem.read 0 = 0xF0 ∧ State.reset.mem.read 1 = 0x90 ∧ State.reset.mem.read 2 = 0x90 ∧
    State.reset.mem.read 3 = 0x90 ∧ State.reset.mem.read 4 = 0xF0 ∧ ∀ a, 80 ≤ a → State.reset.mem.read a = 0

/-- The invariant holds at reset (R26); its canonical memory form is the model's (log entry 10). -/
def Obligations.ResetSatisfiesTheInvariant : Prop := State.reset.Inv

/-- R112, R113 and R35, over every font (D13), program and seed: what construction leaves, and that a program longer
than 3584 bytes has no instance (D19). `PC` is conflict C4's, the seed is taken unchanged (D20). The key-down bits are
not the core's (log entry 1) and not stated. -/
def Obligations.ConstructionLoadsFontProgramAndSeed : Prop :=
  ∀ (font program : List Byte) (seed : BitVec 32),
    (fontAdmissible font = true → program.length ≤ 3584 →
      ∃ s, construct font program seed = some s ∧
        (∀ a, s.mem.read a =
          if a < 80 then font.getD a 0
          else if 512 ≤ a ∧ a < 512 + program.length then program.getD (a - 512) 0 else 0) ∧
        (∀ r, s.reg r = 0) ∧ s.i = 0 ∧ s.pc = 0x200 ∧ s.dt = 0 ∧ s.st = 0 ∧ s.sp = 0 ∧
        (∀ k : Fin 16, s.stack[k] = 0) ∧ (∀ x y, s.disp.pixel x y = false) ∧ s.rng = seed ∧ s.halt = none) ∧
    (3584 < program.length → construct font program seed = none)

/-! ## Fetch, decode, step -/

/-- R45: when the two bytes at `PC` decode to `i`, the step is the execute phase of `i` after `PC <- PC + 2`. -/
def Obligations.StepRunsTheDecodedInstruction : Prop :=
  ∀ (s : State) (i : Instr), Executes s i → step s = exec i (s.setPc (s.pc + 2))

/-- R43: the fetch checks `PC` and `PC + 1`, faults with every piece of state but `HALT` unchanged, and otherwise forms
the word with the byte at `PC` high. That 4095 faults is decision D3, the byte order D1, the recorded address D16 (log
entry 12). -/
def Obligations.FetchChecksBothAddressesAndReadsBigEndian : Prop :=
  ∀ s : State, s.halt = none →
    (4096 ≤ s.pc.toNat → ∃ t, step s = .next t ∧
      t.halt = some (.outOfBoundsAccess s.pc.toNat s.pc) ∧ Frame [.halt] s t) ∧
    (s.pc.toNat = 4095 → ∃ t, step s = .next t ∧
      t.halt = some (.outOfBoundsAccess 4096 s.pc) ∧ Frame [.halt] s t) ∧
    (s.pc.toNat < 4095 → ∃ w, fetch s = .ok w ∧
      w.toNat = (s.mem.read s.pc.toNat).toNat * 256 + (s.mem.read (s.pc.toNat + 1)).toNat)

/-- The words R47 lists, and no others, match no pattern. That `5xyn` and `9xyn` with `n` not 0 are illegal is decision
D10; the patterns are the spec's general knowledge G1 (log entries 11 and 12). -/
def Obligations.IllegalWordsAreThoseOfTheTable : Prop :=
  ∀ w : Word, (decode w = .error (.invalidOpcode w) ↔ illegalWord w.toNat = true) ∧
    ((∃ i, decode w = .ok i) ↔ illegalWord w.toNat = false)

/-- R44 with R47's words: an illegal word at `PC` faults with `InvalidOpcode` of the word; `PC` is not advanced and
nothing but `HALT` changes. Rests on D10, D14 and D16 (log entry 12). -/
def Obligations.IllegalWordFaultsWithoutAdvancing : Prop :=
  ∀ (s : State) (w : Word), s.halt = none → fetch s = .ok w → illegalWord w.toNat = true →
    ∃ t, step s = .next t ∧ t.halt = some (.invalidOpcode w s.pc) ∧ Frame [.halt] s t

/-- R78: `SYS` does nothing in its execute phase, so a step of it moves `PC` by 2 and changes nothing else. -/
def Obligations.SysStepOnlyAdvancesThePc : Prop :=
  ∀ (s : State) (nnn : Addr12), exec (.sys nnn) s = .next s ∧
    (Executes s (.sys nnn) → ∃ t, step s = .next t ∧ t.pc = s.pc + 2 ∧ Frame [.counter] s t)

/-- R48: every family-0 word but `00E0` and `00EE` decodes to `SYS` with its low 12 bits. The patterns are the spec's
general knowledge G1 (log entry 11). -/
def Obligations.FamilyZeroWordsDecodeToSys : Prop :=
  ∀ w : Word, w.toNat < 4096 → w ≠ 0x00E0 → w ≠ 0x00EE → ∃ nnn, nnn.toNat = w.toNat ∧ decode w = .ok (.sys nnn)

/-- R46 and R40: encoding a well-formed instruction and decoding its bytes gives the instruction back, with nothing
left over; no bit of an encoding is dropped. The patterns are the spec's general knowledge G1 (log entry 11). -/
def Obligations.DecodeOfEncodeIsTheInstruction : Prop :=
  ∀ i : Instr, i.wellFormed = true → decodeBytes (encodeBytes i) = .ok (i, [])

/-- R44: each legal word matches exactly one pattern: what the decoder reads is well-formed and its encoding is the
word itself. The patterns are the spec's general knowledge G1 (log entry 11). -/
def Obligations.EncodeOfDecodeIsTheWord : Prop :=
  ∀ (w : Word) (i : Instr), decode w = .ok i → i.wellFormed = true ∧ encode i = w

/-- Words written out from the patterns of R46, one or more of each family (general knowledge G1, log
entry 11), and one word that is illegal by decision D10 (log entry 12). -/
def Obligations.SampleWordsDecode : Prop :=
  decode 0x0123 = .ok (.sys 0x123) ∧ decode 0x00E0 = .ok .cls ∧ decode 0x00EE = .ok .ret ∧
  decode 0x1234 = .ok (.jp 0x234) ∧ decode 0x2300 = .ok (.call 0x300) ∧ decode 0x3244 = .ok (.seVxByte 2 0x44) ∧
  decode 0x4244 = .ok (.sneVxByte 2 0x44) ∧ decode 0x7305 = .ok (.addVxByte 3 0x05) ∧
  decode 0x9120 = .ok (.sneVxVy 1 2) ∧
  decode 0x5120 = .ok (.seVxVy 1 2) ∧ decode 0x6A2C = .ok (.ldVxByte 10 0x2C) ∧ decode 0x8124 = .ok (.addVxVy 1 2) ∧
  decode 0x912F = .error (.invalidOpcode 0x912F) ∧ decode 0xA050 = .ok (.ldIAddr 0x050) ∧
  decode 0xB300 = .ok (.jpV0Addr 0x300) ∧ decode 0xC30F = .ok (.rnd 3 0x0F) ∧ decode 0xD125 = .ok (.drw 1 2 5) ∧
  decode 0xE19E = .ok (.skpVx 1) ∧ decode 0xF30A = .ok (.ldVxK 3) ∧ decode 0xF165 = .ok (.ldVxI 1)

/-! ## ALU and moves -/

/-- R55, R56, R57: the loads and the immediate add write only `V[x]`, and no flag. Their semantics, and that `7xkk`
leaves `VF`, are the spec's general knowledge G7 and decision D6 (log entries 11 and 12). -/
def Obligations.MovesAndImmediateAddWriteOneRegister : Prop :=
  ∀ (s : State) (x y : Reg) (kk : Byte),
    (∃ t, exec (.ldVxByte x kk) s = .next t ∧ t.reg x = kk ∧ OtherRegs [x] s t ∧ Frame [.regs] s t) ∧
    (∃ t, exec (.ldVxVy x y) s = .next t ∧ t.reg x = s.reg y ∧ OtherRegs [x] s t ∧ Frame [.regs] s t) ∧
    (∃ t, exec (.addVxByte x kk) s = .next t ∧ (t.reg x).toNat = ((s.reg x).toNat + kk.toNat) % 256 ∧
      OtherRegs [x] s t ∧ Frame [.regs] s t)

/-- R58, R59, R60: `V[x]` takes the bitwise result; `VF` is unchanged unless it is the destination. That the operands
are `V[x]` and `V[y]` and the destination `V[x]` is decision D5 (log entry 12). -/
def Obligations.BitwiseOperationsWriteOneRegister : Prop :=
  ∀ (s : State) (x y : Reg),
    (∃ t, exec (.orVxVy x y) s = .next t ∧
      (∀ k, (t.reg x).getLsbD k = ((s.reg x).getLsbD k || (s.reg y).getLsbD k)) ∧
      OtherRegs [x] s t ∧ Frame [.regs] s t) ∧
    (∃ t, exec (.andVxVy x y) s = .next t ∧
      (∀ k, (t.reg x).getLsbD k = ((s.reg x).getLsbD k && (s.reg y).getLsbD k)) ∧
      OtherRegs [x] s t ∧ Frame [.regs] s t) ∧
    (∃ t, exec (.xorVxVy x y) s = .next t ∧
      (∀ k, (t.reg x).getLsbD k = ((s.reg x).getLsbD k ^^ (s.reg y).getLsbD k)) ∧
      OtherRegs [x] s t ∧ Frame [.regs] s t)

/-- R61: the sum mod 256 and the carry; with `x = 15`, `VF` is the carry (conflict C1). The binding of the operands is
decision D5 (log entry 12). -/
def Obligations.AddWritesSumThenCarry : Prop :=
  ∀ (s : State) (x y : Reg), ∃ t, exec (.addVxVy x y) s = .next t ∧
    (x ≠ 15 → (t.reg x).toNat = ((s.reg x).toNat + (s.reg y).toNat) % 256) ∧
    (t.reg 15).toNat = (if (s.reg x).toNat + (s.reg y).toNat ≥ 256 then 1 else 0) ∧
    OtherRegs [x, 15] s t ∧ Frame [.regs] s t

/-- R62 and R64: the difference mod 256, in each direction, and the no-borrow flag (`>=`, so 1 when the operands are
equal); with `x = 15`, `VF` is the flag (conflict C1). The binding of the operands is decision D5 (log entry 12). -/
def Obligations.SubtractionsWriteDifferenceThenNoBorrow : Prop :=
  ∀ (s : State) (x y : Reg),
    (∃ t, exec (.subVxVy x y) s = .next t ∧
      (x ≠ 15 → ((t.reg x).toNat : Int) = ((s.reg x).toNat - (s.reg y).toNat : Int) % 256) ∧
      (t.reg 15).toNat = (if (s.reg x).toNat ≥ (s.reg y).toNat then 1 else 0) ∧
      OtherRegs [x, 15] s t ∧ Frame [.regs] s t) ∧
    (∃ t, exec (.subnVxVy x y) s = .next t ∧
      (x ≠ 15 → ((t.reg x).toNat : Int) = ((s.reg y).toNat - (s.reg x).toNat : Int) % 256) ∧
      (t.reg 15).toNat = (if (s.reg y).toNat ≥ (s.reg x).toNat then 1 else 0) ∧
      OtherRegs [x, 15] s t ∧ Frame [.regs] s t)

/-- R63 and R65: the shift by one of `V[x]` in place and the bit shifted out, whatever `y` is. That the shift reads
`V[x]` and not `V[y]` is decision D5 (log entry 12). -/
def Obligations.ShiftsWriteResultThenShiftedOutBit : Prop :=
  ∀ (s : State) (x y : Reg),
    (∃ t, exec (.shrVx x y) s = .next t ∧ (x ≠ 15 → (t.reg x).toNat = (s.reg x).toNat / 2) ∧
      (t.reg 15).toNat = (s.reg x).toNat % 2 ∧ OtherRegs [x, 15] s t ∧ Frame [.regs] s t) ∧
    (∃ t, exec (.shlVx x y) s = .next t ∧ (x ≠ 15 → (t.reg x).toNat = (s.reg x).toNat * 2 % 256) ∧
      (t.reg 15).toNat = (s.reg x).toNat / 128 ∧ OtherRegs [x, 15] s t ∧ Frame [.regs] s t)

/-! ## Skips -/

/-- R67 to R70: a skip whose condition holds moves `PC` by 2 more; nothing else changes. -/
def Obligations.SkipsMoveOnlyThePc : Prop :=
  ∀ (s : State) (x y : Reg) (kk : Byte),
    (∃ t, exec (.seVxByte x kk) s = .next t ∧ t.pc = (if s.reg x = kk then s.pc + 2 else s.pc) ∧
      Frame [.counter] s t) ∧
    (∃ t, exec (.sneVxByte x kk) s = .next t ∧ t.pc = (if s.reg x = kk then s.pc else s.pc + 2) ∧
      Frame [.counter] s t) ∧
    (∃ t, exec (.seVxVy x y) s = .next t ∧ t.pc = (if s.reg x = s.reg y then s.pc + 2 else s.pc) ∧
      Frame [.counter] s t) ∧
    (∃ t, exec (.sneVxVy x y) s = .next t ∧ t.pc = (if s.reg x = s.reg y then s.pc else s.pc + 2) ∧
      Frame [.counter] s t)

/-- R66 over the whole step, an inference the spec marks as derived: a step of each of the six skip instructions moves
`PC` by 4 when its condition holds and by 2 when it does not, whatever the skipped word is. `SKP` and `SKNP` skip so for
a value that names a key (D9); the key-down bits are the step's argument (D28; log entries 1 and 12). -/
def Obligations.SkipStepMovesThePcByFourOrTwo : Prop :=
  ∀ (s : State) (x y : Reg) (kk : Byte),
    (Executes s (.seVxByte x kk) → StepSkips s (s.reg x == kk)) ∧
    (Executes s (.sneVxByte x kk) → StepSkips s (s.reg x != kk)) ∧
    (Executes s (.seVxVy x y) → StepSkips s (s.reg x == s.reg y)) ∧
    (Executes s (.sneVxVy x y) → StepSkips s (s.reg x != s.reg y)) ∧
    (Executes s (.skpVx x) → (s.reg x).toNat < 16 → StepSkips s (s.keys.getLsbD (s.reg x).toNat)) ∧
    (Executes s (.sknpVx x) → (s.reg x).toNat < 16 → StepSkips s (!s.keys.getLsbD (s.reg x).toNat))

/-! ## Display -/

/-- R71: `CLS` turns every pixel off and writes nothing else. -/
def Obligations.ClearTurnsEveryPixelOff : Prop :=
  ∀ s : State, ∃ t, exec .cls s = .next t ∧ (∀ x y, t.disp.pixel x y = false) ∧ Frame [.display] s t

/-- R72, R73 and R74 in closed form: with its sprite inside memory (or of height 0), `DRW` toggles exactly the pixels
the sprite covers, and `VF` is 1 if such a pixel was on and 0 if none was. That `VF` is 0 without a collision is
decision D18, height 0 an inference the spec marks as derived, the orientation general knowledge G11 (log entries 11
and 12). -/
def Obligations.DrawTogglesExactlyTheCoveredPixels : Prop :=
  ∀ (s : State) (x y : Reg) (n : Height), (n = 0 ∨ s.i.toNat + n.val ≤ 4096) →
    ∃ t, exec (.drw x y n) s = .next t ∧
      (∀ px py, SpriteCovers s (s.reg x) (s.reg y) n px py → t.disp.pixel px py = !s.disp.pixel px py) ∧
      (∀ px py, ¬ SpriteCovers s (s.reg x) (s.reg y) n px py → t.disp.pixel px py = s.disp.pixel px py) ∧
      ((∃ px py, SpriteCovers s (s.reg x) (s.reg y) n px py ∧ s.disp.pixel px py = true) → t.reg 15 = 1) ∧
      ((¬ ∃ px py, SpriteCovers s (s.reg x) (s.reg y) n px py ∧ s.disp.pixel px py = true) → t.reg 15 = 0) ∧
      OtherRegs [15] s t ∧ Frame [.regs, .display] s t

/-- L1-2 in general, from R72 and R74: drawing a sprite a second time at the same place restores the display, and then
`VF` is 1 exactly when the sprite covers a pixel that was off at first. Rests on D18 for `VF` (log entry 12). -/
def Obligations.DrawingTwiceRestoresTheDisplay : Prop :=
  ∀ (s t u : State) (x y : Reg) (n : Height), x ≠ 15 → y ≠ 15 → (n = 0 ∨ s.i.toNat + n.val ≤ 4096) →
    exec (.drw x y n) s = .next t → exec (.drw x y n) t = .next u →
      (∀ px py, u.disp.pixel px py = s.disp.pixel px py) ∧
      (u.reg 15 = 1 ↔ ∃ px py, SpriteCovers s (s.reg x) (s.reg y) n px py ∧ s.disp.pixel px py = false)

/-! ## Random source -/

/-- R75, R76, R77: the source advances by the exact recurrence whatever the mask, stays below 2^31, and `V[x]` takes
bits 15 to 8 of the new state, masked. -/
def Obligations.RandomAdvancesTheSourceAndMasksItsByte : Prop :=
  ∀ (s : State) (x : Reg) (kk : Byte), ∃ t, exec (.rnd x kk) s = .next t ∧
    t.rng.toNat = (s.rng.toNat * 1103515245 + 12345) % 2 ^ 31 ∧ t.rng.toNat < 2 ^ 31 ∧
    (∀ k, k < 8 → (t.reg x).getLsbD k = (t.rng.getLsbD (8 + k) && kk.getLsbD k)) ∧
    OtherRegs [x] s t ∧ Frame [.regs, .random] s t

/-- Decision D20: `RND` sees a source state only modulo 2^31, so seeds that agree there give the same values (log entry
12). -/
def Obligations.RandomSeesTheSourceModuloItsModulus : Prop :=
  ∀ (s : State) (x : Reg) (kk : Byte) (r : BitVec 32), r.toNat % 2 ^ 31 = s.rng.toNat % 2 ^ 31 →
    exec (.rnd x kk) (s.setRng r) = exec (.rnd x kk) s

/-! ## Control transfer -/

/-- R79 and R82: a jump writes only `PC`; `JP V0` adds `V[0]` exactly, with no reduction to 12 bits. The semantics are
the spec's general knowledge G8 and decision D8 (log entries 11 and 12). -/
def Obligations.JumpsWriteOnlyThePc : Prop :=
  ∀ (s : State) (nnn : Addr12),
    (∃ t, exec (.jp nnn) s = .next t ∧ t.pc.toNat = nnn.toNat ∧ Frame [.counter] s t) ∧
    (∃ t, exec (.jpV0Addr nnn) s = .next t ∧ t.pc.toNat = nnn.toNat + (s.reg 0).toNat ∧ Frame [.counter] s t)

/-- R80: with a slot free, `CALL` moves `SP` up by one, stores the advanced `PC` in that slot and jumps; with `SP + 1`
at 16 or more it raises `StackOverflow` and changes nothing but `HALT`. That a fault sets `HALT` and changes nothing else
is R98 and R99, decisions D14 and D15 (log entries 2 and 12). What it records is another statement's. -/
def Obligations.CallPushesTheAdvancedPcOrOverflows : Prop :=
  ∀ (s : State) (nnn : Addr12),
    (s.sp.toNat + 1 < 16 → ∃ t, exec (.call nnn) s = .next t ∧ t.sp.toNat = s.sp.toNat + 1 ∧
      (∀ k : Fin 16, t.stack[k] = if k.val = s.sp.toNat + 1 then s.pc else s.stack[k]) ∧
      t.pc.toNat = nnn.toNat ∧ Frame [.counter, .pointer, .stack] s t) ∧
    (16 ≤ s.sp.toNat + 1 → ∃ t a, exec (.call nnn) s = .next t ∧ t.halt = some (.stackOverflow a) ∧
      Frame [.halt] s t)

/-- R81: with a frame pending, `RET` loads `PC` from `STACK[SP]`, moves `SP` down by one and leaves every slot; with
`SP = 0` it raises `StackUnderflow` and changes nothing but `HALT`. `SP` is 0 to 15 in every state of a run (R20),
which the invariant states; above 15 there is no slot (log entry 6). That a fault sets `HALT` and changes nothing else is
R98 and R99, decisions D14 and D15 (log entries 2 and 12). What it records is another statement's. -/
def Obligations.ReturnPopsOrUnderflows : Prop :=
  ∀ s : State,
    (∀ k : Fin 16, s.sp.toNat = k.val → k ≠ 0 → ∃ t, exec .ret s = .next t ∧ t.pc = s.stack[k] ∧
      t.sp.toNat = s.sp.toNat - 1 ∧ Frame [.counter, .pointer] s t) ∧
    (s.sp = 0 → ∃ t a, exec .ret s = .next t ∧ t.halt = some (.stackUnderflow a) ∧ Frame [.halt] s t)

/-- L1-6, from R80 and R81: a return after a call, with the stack as the call left it, goes to the call's successor and
restores `SP`. -/
def Obligations.ReturnAfterCallGoesToItsSuccessor : Prop :=
  ∀ (s t u : State) (nnn : Addr12), s.sp.toNat < 15 → exec (.call nnn) s = .next t → u.sp = t.sp →
    u.stack = t.stack → ∃ w, exec .ret u = .next w ∧ w.pc = s.pc ∧ w.sp = s.sp

/-! ## Index register and memory -/

/-- R83 and R84: `LD I` takes any 12-bit value unchecked; `ADD I` is exact, writes no flag, and faults with `I`
unchanged only when the sum exceeds 0xFFFF. The semantics are the spec's general knowledge G9 and decision D7, the
recorded address D16 (log entries 11 and 12). -/
def Obligations.IndexLoadAndAddAreExact : Prop :=
  ∀ (s : State) (x : Reg) (nnn : Addr12),
    (∃ t, exec (.ldIAddr nnn) s = .next t ∧ t.i.toNat = nnn.toNat ∧ Frame [.index] s t) ∧
    (s.i.toNat + (s.reg x).toNat ≤ 0xFFFF → ∃ t, exec (.addIVx x) s = .next t ∧
      t.i.toNat = s.i.toNat + (s.reg x).toNat ∧ Frame [.index] s t) ∧
    (0xFFFF < s.i.toNat + (s.reg x).toNat → ∃ t, exec (.addIVx x) s = .next t ∧
      t.halt = some (.outOfBoundsAccess (s.i.toNat + (s.reg x).toNat) (s.pc - 2)) ∧ Frame [.halt] s t)

/-- R85: `I` becomes 5 times a digit of 0 to 15; a larger value raises `InvalidDigit` with `I` unchanged. That the fault
sets `HALT`, holds the value and leaves everything else is R98 and R99, decisions D14, D15 and D16 (log entries 2 and
12). -/
def Obligations.FontLookupGivesTheGlyphAddressOrFaults : Prop :=
  ∀ (s : State) (x : Reg),
    ((s.reg x).toNat ≤ 15 → ∃ t, exec (.ldFVx x) s = .next t ∧ t.i.toNat = 5 * (s.reg x).toNat ∧
      Frame [.index] s t) ∧
    (15 < (s.reg x).toNat → ∃ t a, exec (.ldFVx x) s = .next t ∧ t.halt = some (.invalidDigit (s.reg x) a) ∧
      Frame [.halt] s t)

/-- R86: the three decimal digits at `I`, `I + 1`, `I + 2`, every other byte as before; out of range, the lowest bad
address faults before any byte is written. That the fault sets `HALT`, holds that address and leaves everything else is
R31, R98 and R99, decisions D14, D15 and D16 (log entries 2 and 12). Canonical memory is part of the invariant (log
entry 10). -/
def Obligations.BcdStoresThreeDigitsOrFaults : Prop :=
  ∀ (s : State) (x : Reg), s.mem.wf = true →
    (s.indexAddr + 2 < 4096 → ∃ t, exec (.ldBVx x) s = .next t ∧
      (t.mem.read s.indexAddr).toNat = (s.reg x).toNat / 100 ∧
      (t.mem.read (s.indexAddr + 1)).toNat = (s.reg x).toNat / 10 % 10 ∧
      (t.mem.read (s.indexAddr + 2)).toNat = (s.reg x).toNat % 10 ∧
      OtherBytes s.indexAddr 3 s t ∧ Frame [.memory] s t) ∧
    (4096 ≤ s.indexAddr + 2 → ∃ t a, exec (.ldBVx x) s = .next t ∧
      t.halt = some (.outOfBoundsAccess (max s.indexAddr 4096) a) ∧ Frame [.halt] s t)

/-- R87: `V[0]` to `V[x]` at `I` to `I + x`, every other byte as before. That `I` is unchanged is an inference the spec
marks as derived. Canonical memory is part of the invariant. -/
def Obligations.BulkStoreWritesTheRegisters : Prop :=
  ∀ (s : State) (x : Reg), s.mem.wf = true → s.indexAddr + x.val < 4096 →
    ∃ t, exec (.ldIVx x) s = .next t ∧ (∀ r, r ≤ x → t.mem.read (s.indexAddr + r.val) = s.reg r) ∧
      OtherBytes s.indexAddr (x.val + 1) s t ∧ Frame [.memory] s t

/-- R88: the bytes at `I` to `I + x` into `V[0]` to `V[x]`, every other register as before. That `I` is unchanged is an
inference the spec marks as derived. -/
def Obligations.BulkLoadReadsTheRegisters : Prop :=
  ∀ (s : State) (x : Reg), s.indexAddr + x.val < 4096 →
    ∃ t, exec (.ldVxI x) s = .next t ∧ (∀ r, r ≤ x → t.reg r = s.mem.read (s.indexAddr + r.val)) ∧
      (∀ r, x < r → t.reg r = s.reg r) ∧ Frame [.regs] s t

/-- L1-5, from R87 and R88: a load of the same range after a store, with memory and `I` as the store left them,
restores `V[0]` to `V[x]`. -/
def Obligations.LoadAfterStoreRestoresTheRegisters : Prop :=
  ∀ (s t u : State) (x : Reg), s.mem.wf = true → s.indexAddr + x.val < 4096 → exec (.ldIVx x) s = .next t →
    u.mem = t.mem → u.i = t.i → ∃ w, exec (.ldVxI x) u = .next w ∧ ∀ r, r ≤ x → w.reg r = s.reg r

/-- R31 for the sprite draw and the two bulk transfers: an access that would leave memory faults with the lowest
out-of-range address, and no byte, register or pixel changes. The all-or-nothing order is decision D14, the
recorded address D16 (log entry 12). -/
def Obligations.AccessOutsideMemoryFaultsBeforeAnyEffect : Prop :=
  ∀ (s : State) (x y : Reg) (n : Height),
    (n ≠ 0 → 4096 < s.indexAddr + n.val → ∃ t, exec (.drw x y n) s = .next t ∧
      t.halt = some (.outOfBoundsAccess (max s.indexAddr 4096) (s.pc - 2)) ∧ Frame [.halt] s t) ∧
    (4096 ≤ s.indexAddr + x.val → ∃ t, exec (.ldIVx x) s = .next t ∧
      t.halt = some (.outOfBoundsAccess (max s.indexAddr 4096) (s.pc - 2)) ∧ Frame [.halt] s t) ∧
    (4096 ≤ s.indexAddr + x.val → ∃ t, exec (.ldVxI x) s = .next t ∧
      t.halt = some (.outOfBoundsAccess (max s.indexAddr 4096) (s.pc - 2)) ∧ Frame [.halt] s t)

/-- R39, an inference the spec marks as derived: two bytes that the bulk store or `LD B, Vx` has just written at `PC`
are the word the very next fetch reads. The byte order is decision D1 (log entry 12); canonical memory is part of the
invariant (log entry 10). -/
def Obligations.StoredWordIsTheNextOneFetched : Prop :=
  ∀ (s t : State) (x : Reg), s.mem.wf = true →
    (∀ r q : Reg, q.val = r.val + 1 → q ≤ x → s.indexAddr + x.val < 4096 → s.pc.toNat = s.indexAddr + r.val →
      exec (.ldIVx x) s = .next t →
      ∃ w, fetch t = .ok w ∧ w.toNat = (s.reg r).toNat * 256 + (s.reg q).toNat) ∧
    (s.indexAddr + 2 < 4096 → s.pc.toNat = s.indexAddr → exec (.ldBVx x) s = .next t →
      ∃ w, fetch t = .ok w ∧ w.toNat = (s.reg x).toNat / 100 * 256 + (s.reg x).toNat / 10 % 10) ∧
    (s.indexAddr + 2 < 4096 → s.pc.toNat = s.indexAddr + 1 → exec (.ldBVx x) s = .next t →
      ∃ w, fetch t = .ok w ∧ w.toNat = (s.reg x).toNat / 10 % 10 * 256 + (s.reg x).toNat % 10)

/-! ## Timers and keypad -/

/-- R89, R90, R91: the timer moves. Their semantics are the spec's general knowledge G10 (log entry 11). -/
def Obligations.TimerMovesCopyOneByte : Prop :=
  ∀ (s : State) (x : Reg),
    (∃ t, exec (.ldVxDt x) s = .next t ∧ t.reg x = s.dt ∧ OtherRegs [x] s t ∧ Frame [.regs] s t) ∧
    (∃ t, exec (.ldDtVx x) s = .next t ∧ t.dt = s.reg x ∧ Frame [.delay] s t) ∧
    (∃ t, exec (.ldStVx x) s = .next t ∧ t.st = s.reg x ∧ Frame [.sound] s t)

/-- R92: `tick` takes one from each timer, floored at zero, and changes nothing else; in a halted core too, which is
decision D23 (log entry 12). -/
def Obligations.TickCountsBothTimersDownToZero : Prop :=
  ∀ s : State, (tick s).dt.toNat = s.dt.toNat - 1 ∧ (tick s).st.toNat = s.st.toNat - 1 ∧
    Frame [.delay, .sound] s (tick s)

/-- R94 and R95: the key tests skip on the level of key `V[x]`; a value of 16 or more raises `InvalidKey` and changes
nothing else. The fault is decision D9, the recorded address D16 (log entry 12); the key-down bits
are the step's argument (D28, log entry 1). -/
def Obligations.KeyTestsSkipOnTheLevelOrFault : Prop :=
  ∀ (s : State) (x : Reg),
    ((s.reg x).toNat < 16 →
      (∃ t, exec (.skpVx x) s = .next t ∧
        t.pc = (if s.keys.getLsbD (s.reg x).toNat = true then s.pc + 2 else s.pc) ∧ Frame [.counter] s t) ∧
      (∃ t, exec (.sknpVx x) s = .next t ∧
        t.pc = (if s.keys.getLsbD (s.reg x).toNat = true then s.pc else s.pc + 2) ∧ Frame [.counter] s t)) ∧
    (16 ≤ (s.reg x).toNat →
      (∃ t, exec (.skpVx x) s = .next t ∧ t.halt = some (.invalidKey (s.reg x) (s.pc - 2)) ∧ Frame [.halt] s t) ∧
      (∃ t, exec (.sknpVx x) s = .next t ∧ t.halt = some (.invalidKey (s.reg x) (s.pc - 2)) ∧ Frame [.halt] s t))

/-- R96: with a key down, `V[x]` takes some down key's number, whichever KEY_CHOICE prefers (D12, log entry 5); with
none, only `PC` moves, back to the instruction (D11, log entry 12). -/
def Obligations.KeyWaitStoresADownKeyOrMovesBack : Prop :=
  ∀ (s : State) (x : Reg),
    (s.keys ≠ 0 → ∃ (t : State) (k : Key), exec (.ldVxK x) s = .next t ∧ s.keys.getLsbD k = true ∧
      (t.reg x).toNat = k.val ∧ OtherRegs [x] s t ∧ Frame [.regs] s t) ∧
    (s.keys = 0 → ∃ t, exec (.ldVxK x) s = .next t ∧ t.pc = s.pc - 2 ∧ Frame [.counter] s t)

/-! ## Faults -/

/-- R97's table, with the exact condition of each: the execute phase of a running core raises a fault exactly in these
cases, and this is what each records. Payloads and `InvalidKey` are decisions D9 and D16; that a fault is a next state
with `HALT` set is log entry 2 (log entry 12 for the decisions). -/
def Obligations.ExecutePhaseFaultsAreThoseOfTheTable : Prop :=
  ∀ (i : Instr) (s t : State) (f : Fault), s.halt = none → exec i s = .next t → (t.halt = some f ↔
    (∃ x y n, i = .drw x y n ∧ n ≠ 0 ∧ 4096 < s.i.toNat + n.val ∧
      f = .outOfBoundsAccess (max s.i.toNat 4096) (s.pc - 2)) ∨
    (∃ x, i = .ldBVx x ∧ 4096 ≤ s.i.toNat + 2 ∧ f = .outOfBoundsAccess (max s.i.toNat 4096) (s.pc - 2)) ∨
    (∃ x, (i = .ldIVx x ∨ i = .ldVxI x) ∧ 4096 ≤ s.i.toNat + x.val ∧
      f = .outOfBoundsAccess (max s.i.toNat 4096) (s.pc - 2)) ∨
    (∃ x, i = .addIVx x ∧ 0xFFFF < s.i.toNat + (s.reg x).toNat ∧
      f = .outOfBoundsAccess (s.i.toNat + (s.reg x).toNat) (s.pc - 2)) ∨
    (∃ nnn, i = .call nnn ∧ 15 ≤ s.sp.toNat ∧ f = .stackOverflow (s.pc - 2)) ∨
    (i = .ret ∧ s.sp = 0 ∧ f = .stackUnderflow (s.pc - 2)) ∨
    (∃ x, i = .ldFVx x ∧ 15 < (s.reg x).toNat ∧ f = .invalidDigit (s.reg x) (s.pc - 2)) ∨
    (∃ x, (i = .skpVx x ∨ i = .sknpVx x) ∧ 15 < (s.reg x).toNat ∧ f = .invalidKey (s.reg x) (s.pc - 2)))

/-- R98 and R99 over the whole step: whatever faults, the record holds the address of the instruction, and nothing
changes but `HALT` and, for a fault of the execute phase, the decode advance of `PC`. Preciseness is decision D14, the
record decision D16 (log entry 12). -/
def Obligations.FaultsArePrecise : Prop :=
  ∀ (s t : State) (f : Fault), s.halt = none → step s = .next t → t.halt = some f →
    f.addr = s.pc ∧ Frame [.counter, .halt] s t ∧
    ((∃ i, Executes s i) → t.pc = s.pc + 2) ∧ ((¬ ∃ i, Executes s i) → t.pc = s.pc)

/-- R100: once halted, a step answers the same fault, and no session of host operations changes anything but the
timers, which `tick` still counts down (D23), and the host's own key-down bits. Sticky halting is decision D15 (log
entry 12). -/
def Obligations.HaltIsFinal : Prop :=
  ∀ (s : State) (f : Fault), s.halt = some f →
    step s = .fault f ∧ (∀ keys, (hostStep keys s).1 = .fault f) ∧
    ∀ ops, Frame [.delay, .sound, .keys] s (runSession ops s).2

/-- Every instruction answers a next state in every state: no instruction stops the model (R97 names every fault, and a
fault is a next state with `HALT` set, log entry 2). -/
def Obligations.EveryInstructionAnswersANextState : Prop :=
  ∀ (i : Instr) (s : State), ∃ t, exec i s = .next t

/-! ## Rules of the whole machine -/

/-- The invariant is kept by every step from every state that has it, not only along runs from reset (R17, R20, R27,
R80, R99). -/
def Obligations.StepKeepsTheInvariant : Prop :=
  ∀ s t : State, s.Inv → step s = .next t → t.Inv

/-- Every operation of the host keeps the invariant, from every state that has it: a step with any keys, a tick, a query
(R104, R118; the key-down bits are log entry 1). -/
def Obligations.EveryHostOperationKeepsTheInvariant : Prop :=
  ∀ (op : HostOp) (s : State), s.Inv → (hostApply op s).2.Inv

/-- From every construction, over any font, program and seed, every list of host operations (steps with any keys, ticks,
queries, in any order) ends in a state with the invariant (R17, R20, R118). -/
def Obligations.EverySessionKeepsTheInvariant : Prop :=
  ∀ (font program : List Byte) (seed : BitVec 32) (s : State) (ops : List HostOp),
    construct font program seed = some s → (runSession ops s).2.Inv

/-- R22: only the clear and the draw change a pixel. -/
def Obligations.OnlyClearAndDrawChangeTheDisplay : Prop :=
  ∀ (i : Instr) (s t : State) (px : Fin 64) (py : Fin 32), exec i s = .next t →
    t.disp.pixel px py ≠ s.disp.pixel px py → i = .cls ∨ ∃ x y n, i = .drw x y n

/-- R28: only `LD B, Vx` and `LD [I], Vx` change a byte of memory. -/
def Obligations.OnlyTheTwoStoresChangeMemory : Prop :=
  ∀ (i : Instr) (s t : State) (a : Nat), exec i s = .next t → t.mem.read a ≠ s.mem.read a →
    ∃ x, i = .ldBVx x ∨ i = .ldIVx x

/-- R23 and R77: only `RND` advances the random source, and no other instruction's effect depends on it. -/
def Obligations.OnlyRandomReadsOrWritesTheSource : Prop :=
  ∀ (i : Instr) (s t : State), (∀ x kk, i ≠ .rnd x kk) → exec i s = .next t →
    t.rng = s.rng ∧ ∀ r, exec i (s.setRng r) = .next (t.setRng r)

/-- R21 and R20: only `CALL` and `RET` move the stack pointer, only `CALL` writes a slot, slot 0 is never written, and no
other instruction's effect depends on the pointer or on a slot. -/
def Obligations.OnlyCallAndReturnUseTheStack : Prop :=
  ∀ (i : Instr) (s t : State), exec i s = .next t →
    (t.sp ≠ s.sp → i = .ret ∨ ∃ nnn, i = .call nnn) ∧
    (∀ k : Fin 16, t.stack[k] ≠ s.stack[k] → k ≠ 0 ∧ ∃ nnn, i = .call nnn) ∧
    (i ≠ .ret → (∀ nnn, i ≠ .call nnn) → ∀ p v, exec i (s.setStack p v) = .next (t.setStack p v))

/-- R15, R18, R19: which instructions write `I`, `DT` and `ST`. -/
def Obligations.OnlyTheirOwnInstructionsWriteIndexAndTimers : Prop :=
  ∀ (i : Instr) (s t : State), exec i s = .next t →
    (t.i ≠ s.i → (∃ nnn, i = .ldIAddr nnn) ∨ (∃ x, i = .addIVx x) ∨ ∃ x, i = .ldFVx x) ∧
    (t.dt ≠ s.dt → ∃ x, i = .ldDtVx x) ∧ (t.st ≠ s.st → ∃ x, i = .ldStVx x)

/-- R14: `VF` is written only by the instructions that write a flag and by those that name it as a destination
register. -/
def Obligations.FlagRegisterHasOnlyItsOwnWriters : Prop :=
  ∀ (i : Instr) (s t : State), exec i s = .next t → t.reg 15 ≠ s.reg 15 → mayWriteVF i = true

/-- R108 and R93: an instruction that does not query the keypad does the same whatever keys are down. -/
def Obligations.KeysReachOnlyTheKeyInstructions : Prop :=
  ∀ (i : Instr) (s t : State) (keys : BitVec 16), readsKeys i = false → exec i s = .next t →
    exec i (s.setKeys keys) = .next (t.setKeys keys)

/-- R19: the sound timer influences nothing observable: two instances that differ only in it answer every session of
host operations alike. -/
def Obligations.SoundTimerInfluencesNothingObservable : Prop :=
  ∀ (ops : List HostOp) (s : State) (b : Byte), (runSession ops (s.setSound b)).1 = (runSession ops s).1

/-! ## Host interface -/

/-- R105 and R96: the outcome of a host step is a fault exactly when the state after is halted; else it carries the
address and the instruction, as AwaitingKey with no state changed when `LD Vx, K` finds no key down, and as Executed
otherwise; and it is never a refusal. That a record is always returned is decision D26, the key-down bits of the state
are the step's argument (D28; log entries 1, 12 and 14). -/
def Obligations.HostStepReportsItsOutcome : Prop :=
  ∀ (s : State) (keys : BitVec 16),
    (∀ f, (hostStep keys s).1 = .fault f ↔ (hostStep keys s).2.halt = some f) ∧
    (∀ i, Executes s i → (hostStep keys s).2.halt = none →
      ((keys = 0 ∧ ∃ x, i = .ldVxK x) →
        (hostStep keys s).1 = .awaitingKey s.pc i ∧ (hostStep keys s).2 = s.setKeys keys) ∧
      (¬ (keys = 0 ∧ ∃ x, i = .ldVxK x) → (hostStep keys s).1 = .executed s.pc i)) ∧
    ∀ r, (hostStep keys s).1 ≠ .refused r

/-- R106: the display read port over 64 by 32 pixels, which changes nothing; outside its ranges the operation is not
defined (D24, log entry 13). -/
def Obligations.DisplayPortReadsThePixel : Prop :=
  ∀ (s : State) (x y : Nat),
    (∀ (hx : x < 64) (hy : y < 32), getPixel s x y = some (s.disp.pixel ⟨x, hx⟩ ⟨y, hy⟩)) ∧
    ((64 ≤ x ∨ 32 ≤ y) → getPixel s x y = none) ∧ (hostApply (.getPixel x y) s).2 = s ∧
    displayWidth = 64 ∧ displayHeight = 32
end

