-- ==== Sys2Proof/Laws/Decode.lean ====
section
/-! SUPPORT. The fields of the words the encoder builds (R40), as numbers and as the decoder reads them. -/

namespace Sys2Proof

theorem wordNnn_toNat {op : Nat} (h : op < 16) (nnn : Addr12) : (wordNnn op nnn).toNat = op * 0x1000 + nnn.toNat := by
  simp only [wordNnn, BitVec.toNat_ofNat]
  omega

theorem wordXkk_toNat {op : Nat} (h : op < 16) (x : Reg) (kk : Byte) :
    (wordXkk op x kk).toNat = op * 0x1000 + x.val * 0x100 + kk.toNat := by
  simp only [wordXkk, BitVec.toNat_ofNat]
  omega

theorem wordXyn_toNat {op n : Nat} (h : op < 16) (x y : Reg) (hn : n < 16) :
    (wordXyn op x y n).toNat = op * 0x1000 + x.val * 0x100 + y.val * 0x10 + n := by
  simp only [wordXyn, BitVec.toNat_ofNat]
  omega

theorem wordOfBytes_toNat (hi lo : Byte) : (wordOfBytes hi lo).toNat = hi.toNat * 0x100 + lo.toNat := by
  simp only [wordOfBytes, BitVec.toNat_ofNat]
  omega

/-! ### The fields as numbers -/

theorem opField_toNat (w : Word) : (opField w).toNat = w.toNat / 0x1000 := by
  simp only [opField, BitVec.extractLsb'_toNat, Nat.shiftRight_eq_div_pow]
  omega

theorem xField_val (w : Word) : (xField w).val = w.toNat / 0x100 % 16 := by
  simp only [xField, BitVec.val_toFin, BitVec.extractLsb'_toNat, Nat.shiftRight_eq_div_pow]

theorem yField_val (w : Word) : (yField w).val = w.toNat / 0x10 % 16 := by
  simp only [yField, BitVec.val_toFin, BitVec.extractLsb'_toNat, Nat.shiftRight_eq_div_pow]

theorem nField_val (w : Word) : (nField w).val = w.toNat % 16 := by
  simp only [nField, BitVec.val_toFin, BitVec.extractLsb'_toNat, Nat.shiftRight_eq_div_pow]
  omega

theorem subField_toNat (w : Word) : (subField w).toNat = w.toNat % 16 := by
  simp only [subField, BitVec.extractLsb'_toNat, Nat.shiftRight_eq_div_pow]
  omega

theorem kkField_toNat (w : Word) : (kkField w).toNat = w.toNat % 0x100 := by
  simp only [kkField, BitVec.extractLsb'_toNat, Nat.shiftRight_eq_div_pow]
  omega

theorem nnnField_toNat (w : Word) : (nnnField w).toNat = w.toNat % 0x1000 := by
  simp only [nnnField, BitVec.extractLsb'_toNat, Nat.shiftRight_eq_div_pow]
  omega

/-! ### The fields of each shape of word, as the decoder reads them -/

theorem fields_wordNnn {op : Nat} (h : op < 16) (nnn : Addr12) :
    opField (wordNnn op nnn) = BitVec.ofNat 4 op ∧ nnnField (wordNnn op nnn) = nnn := by
  have e := wordNnn_toNat h nnn
  refine ⟨BitVec.eq_of_toNat_eq ?_, BitVec.eq_of_toNat_eq ?_⟩
  · rw [opField_toNat, e, BitVec.toNat_ofNat]
    omega
  · rw [nnnField_toNat, e]
    omega

theorem fields_wordXkk {op : Nat} (h : op < 16) (x : Reg) (kk : Byte) :
    opField (wordXkk op x kk) = BitVec.ofNat 4 op ∧ xField (wordXkk op x kk) = x ∧
      kkField (wordXkk op x kk) = kk := by
  have e := wordXkk_toNat h x kk
  refine ⟨BitVec.eq_of_toNat_eq ?_, Fin.ext ?_, BitVec.eq_of_toNat_eq ?_⟩
  · rw [opField_toNat, e, BitVec.toNat_ofNat]
    omega
  · rw [xField_val, e]
    omega
  · rw [kkField_toNat, e]
    omega

theorem fields_wordXyn {op n : Nat} (h : op < 16) (x y : Reg) (hn : n < 16) :
    opField (wordXyn op x y n) = BitVec.ofNat 4 op ∧ xField (wordXyn op x y n) = x ∧
      yField (wordXyn op x y n) = y ∧ subField (wordXyn op x y n) = BitVec.ofNat 4 n ∧
      (nField (wordXyn op x y n)).val = n := by
  have e := wordXyn_toNat h x y hn
  refine ⟨BitVec.eq_of_toNat_eq ?_, Fin.ext ?_, Fin.ext ?_, BitVec.eq_of_toNat_eq ?_, ?_⟩
  · rw [opField_toNat, e, BitVec.toNat_ofNat]
    omega
  · rw [xField_val, e]
    omega
  · rw [yField_val, e]
    omega
  · rw [subField_toNat, e, BitVec.toNat_ofNat]
    omega
  · rw [nField_val, e]
    omega

/-! ### Two bytes and their word -/

@[simp] theorem wordOfBytes_bytesOfWord (w : Word) :
    wordOfBytes (w.extractLsb' 8 8) (w.extractLsb' 0 8) = w := by
  apply BitVec.eq_of_toNat_eq
  rw [wordOfBytes_toNat]
  simp only [BitVec.extractLsb'_toNat, Nat.shiftRight_eq_div_pow]
  omega

/-- Two bytes decode as their word does, with nothing left over. -/
theorem decodeBytes_pair (hi lo : Byte) (i : Instr) :
    decodeBytes [hi, lo] = .ok (i, []) ↔ decode (wordOfBytes hi lo) = .ok i := by
  cases h : decode (wordOfBytes hi lo) <;> simp [decodeBytes, h]

end Sys2Proof
end

