-- ==== Sys2Proof/Laws/State.lean ====
section
/-! SUPPORT. Each field after each update of the state, true by unfolding, so that no later proof unfolds one. -/

namespace Sys2Proof.Machine

/-! ### After writing a register -/

@[simp] theorem State.setReg_mem (s : State) (x : Reg) (b : Byte) : (s.setReg x b).mem = s.mem := rfl
@[simp] theorem State.setReg_v (s : State) (x : Reg) (b : Byte) : (s.setReg x b).v = s.v.set x b := rfl
@[simp] theorem State.setReg_i (s : State) (x : Reg) (b : Byte) : (s.setReg x b).i = s.i := rfl
@[simp] theorem State.setReg_pc (s : State) (x : Reg) (b : Byte) : (s.setReg x b).pc = s.pc := rfl
@[simp] theorem State.setReg_dt (s : State) (x : Reg) (b : Byte) : (s.setReg x b).dt = s.dt := rfl
@[simp] theorem State.setReg_st (s : State) (x : Reg) (b : Byte) : (s.setReg x b).st = s.st := rfl
@[simp] theorem State.setReg_sp (s : State) (x : Reg) (b : Byte) : (s.setReg x b).sp = s.sp := rfl
@[simp] theorem State.setReg_stack (s : State) (x : Reg) (b : Byte) : (s.setReg x b).stack = s.stack := rfl
@[simp] theorem State.setReg_disp (s : State) (x : Reg) (b : Byte) : (s.setReg x b).disp = s.disp := rfl
@[simp] theorem State.setReg_rng (s : State) (x : Reg) (b : Byte) : (s.setReg x b).rng = s.rng := rfl
@[simp] theorem State.setReg_halt (s : State) (x : Reg) (b : Byte) : (s.setReg x b).halt = s.halt := rfl
@[simp] theorem State.setReg_keys (s : State) (x : Reg) (b : Byte) : (s.setReg x b).keys = s.keys := rfl

/-! ### After writing `I` -/

@[simp] theorem State.setIndex_mem (s : State) (w : Word) : (s.setIndex w).mem = s.mem := rfl
@[simp] theorem State.setIndex_v (s : State) (w : Word) : (s.setIndex w).v = s.v := rfl
@[simp] theorem State.setIndex_i (s : State) (w : Word) : (s.setIndex w).i = w := rfl
@[simp] theorem State.setIndex_pc (s : State) (w : Word) : (s.setIndex w).pc = s.pc := rfl
@[simp] theorem State.setIndex_dt (s : State) (w : Word) : (s.setIndex w).dt = s.dt := rfl
@[simp] theorem State.setIndex_st (s : State) (w : Word) : (s.setIndex w).st = s.st := rfl
@[simp] theorem State.setIndex_sp (s : State) (w : Word) : (s.setIndex w).sp = s.sp := rfl
@[simp] theorem State.setIndex_stack (s : State) (w : Word) : (s.setIndex w).stack = s.stack := rfl
@[simp] theorem State.setIndex_disp (s : State) (w : Word) : (s.setIndex w).disp = s.disp := rfl
@[simp] theorem State.setIndex_rng (s : State) (w : Word) : (s.setIndex w).rng = s.rng := rfl
@[simp] theorem State.setIndex_halt (s : State) (w : Word) : (s.setIndex w).halt = s.halt := rfl
@[simp] theorem State.setIndex_keys (s : State) (w : Word) : (s.setIndex w).keys = s.keys := rfl

/-! ### After writing `PC` -/

@[simp] theorem State.setPc_mem (s : State) (w : Word) : (s.setPc w).mem = s.mem := rfl
@[simp] theorem State.setPc_v (s : State) (w : Word) : (s.setPc w).v = s.v := rfl
@[simp] theorem State.setPc_i (s : State) (w : Word) : (s.setPc w).i = s.i := rfl
@[simp] theorem State.setPc_pc (s : State) (w : Word) : (s.setPc w).pc = w := rfl
@[simp] theorem State.setPc_dt (s : State) (w : Word) : (s.setPc w).dt = s.dt := rfl
@[simp] theorem State.setPc_st (s : State) (w : Word) : (s.setPc w).st = s.st := rfl
@[simp] theorem State.setPc_sp (s : State) (w : Word) : (s.setPc w).sp = s.sp := rfl
@[simp] theorem State.setPc_stack (s : State) (w : Word) : (s.setPc w).stack = s.stack := rfl
@[simp] theorem State.setPc_disp (s : State) (w : Word) : (s.setPc w).disp = s.disp := rfl
@[simp] theorem State.setPc_rng (s : State) (w : Word) : (s.setPc w).rng = s.rng := rfl
@[simp] theorem State.setPc_halt (s : State) (w : Word) : (s.setPc w).halt = s.halt := rfl
@[simp] theorem State.setPc_keys (s : State) (w : Word) : (s.setPc w).keys = s.keys := rfl

/-! ### After writing `DT` -/

@[simp] theorem State.setDelay_mem (s : State) (b : Byte) : (s.setDelay b).mem = s.mem := rfl
@[simp] theorem State.setDelay_v (s : State) (b : Byte) : (s.setDelay b).v = s.v := rfl
@[simp] theorem State.setDelay_i (s : State) (b : Byte) : (s.setDelay b).i = s.i := rfl
@[simp] theorem State.setDelay_pc (s : State) (b : Byte) : (s.setDelay b).pc = s.pc := rfl
@[simp] theorem State.setDelay_dt (s : State) (b : Byte) : (s.setDelay b).dt = b := rfl
@[simp] theorem State.setDelay_st (s : State) (b : Byte) : (s.setDelay b).st = s.st := rfl
@[simp] theorem State.setDelay_sp (s : State) (b : Byte) : (s.setDelay b).sp = s.sp := rfl
@[simp] theorem State.setDelay_stack (s : State) (b : Byte) : (s.setDelay b).stack = s.stack := rfl
@[simp] theorem State.setDelay_disp (s : State) (b : Byte) : (s.setDelay b).disp = s.disp := rfl
@[simp] theorem State.setDelay_rng (s : State) (b : Byte) : (s.setDelay b).rng = s.rng := rfl
@[simp] theorem State.setDelay_halt (s : State) (b : Byte) : (s.setDelay b).halt = s.halt := rfl
@[simp] theorem State.setDelay_keys (s : State) (b : Byte) : (s.setDelay b).keys = s.keys := rfl

/-! ### After writing `ST` -/

@[simp] theorem State.setSound_mem (s : State) (b : Byte) : (s.setSound b).mem = s.mem := rfl
@[simp] theorem State.setSound_v (s : State) (b : Byte) : (s.setSound b).v = s.v := rfl
@[simp] theorem State.setSound_i (s : State) (b : Byte) : (s.setSound b).i = s.i := rfl
@[simp] theorem State.setSound_pc (s : State) (b : Byte) : (s.setSound b).pc = s.pc := rfl
@[simp] theorem State.setSound_dt (s : State) (b : Byte) : (s.setSound b).dt = s.dt := rfl
@[simp] theorem State.setSound_st (s : State) (b : Byte) : (s.setSound b).st = b := rfl
@[simp] theorem State.setSound_sp (s : State) (b : Byte) : (s.setSound b).sp = s.sp := rfl
@[simp] theorem State.setSound_stack (s : State) (b : Byte) : (s.setSound b).stack = s.stack := rfl
@[simp] theorem State.setSound_disp (s : State) (b : Byte) : (s.setSound b).disp = s.disp := rfl
@[simp] theorem State.setSound_rng (s : State) (b : Byte) : (s.setSound b).rng = s.rng := rfl
@[simp] theorem State.setSound_halt (s : State) (b : Byte) : (s.setSound b).halt = s.halt := rfl
@[simp] theorem State.setSound_keys (s : State) (b : Byte) : (s.setSound b).keys = s.keys := rfl

/-! ### After writing memory -/

@[simp] theorem State.setMem_mem (s : State) (m : Memory) : (s.setMem m).mem = m := rfl
@[simp] theorem State.setMem_v (s : State) (m : Memory) : (s.setMem m).v = s.v := rfl
@[simp] theorem State.setMem_i (s : State) (m : Memory) : (s.setMem m).i = s.i := rfl
@[simp] theorem State.setMem_pc (s : State) (m : Memory) : (s.setMem m).pc = s.pc := rfl
@[simp] theorem State.setMem_dt (s : State) (m : Memory) : (s.setMem m).dt = s.dt := rfl
@[simp] theorem State.setMem_st (s : State) (m : Memory) : (s.setMem m).st = s.st := rfl
@[simp] theorem State.setMem_sp (s : State) (m : Memory) : (s.setMem m).sp = s.sp := rfl
@[simp] theorem State.setMem_stack (s : State) (m : Memory) : (s.setMem m).stack = s.stack := rfl
@[simp] theorem State.setMem_disp (s : State) (m : Memory) : (s.setMem m).disp = s.disp := rfl
@[simp] theorem State.setMem_rng (s : State) (m : Memory) : (s.setMem m).rng = s.rng := rfl
@[simp] theorem State.setMem_halt (s : State) (m : Memory) : (s.setMem m).halt = s.halt := rfl
@[simp] theorem State.setMem_keys (s : State) (m : Memory) : (s.setMem m).keys = s.keys := rfl

/-! ### After writing the display -/

@[simp] theorem State.setDisp_mem (s : State) (d : Display) : (s.setDisp d).mem = s.mem := rfl
@[simp] theorem State.setDisp_v (s : State) (d : Display) : (s.setDisp d).v = s.v := rfl
@[simp] theorem State.setDisp_i (s : State) (d : Display) : (s.setDisp d).i = s.i := rfl
@[simp] theorem State.setDisp_pc (s : State) (d : Display) : (s.setDisp d).pc = s.pc := rfl
@[simp] theorem State.setDisp_dt (s : State) (d : Display) : (s.setDisp d).dt = s.dt := rfl
@[simp] theorem State.setDisp_st (s : State) (d : Display) : (s.setDisp d).st = s.st := rfl
@[simp] theorem State.setDisp_sp (s : State) (d : Display) : (s.setDisp d).sp = s.sp := rfl
@[simp] theorem State.setDisp_stack (s : State) (d : Display) : (s.setDisp d).stack = s.stack := rfl
@[simp] theorem State.setDisp_disp (s : State) (d : Display) : (s.setDisp d).disp = d := rfl
@[simp] theorem State.setDisp_rng (s : State) (d : Display) : (s.setDisp d).rng = s.rng := rfl
@[simp] theorem State.setDisp_halt (s : State) (d : Display) : (s.setDisp d).halt = s.halt := rfl
@[simp] theorem State.setDisp_keys (s : State) (d : Display) : (s.setDisp d).keys = s.keys := rfl

/-! ### After writing `RNG` -/

@[simp] theorem State.setRng_mem (s : State) (r : BitVec 32) : (s.setRng r).mem = s.mem := rfl
@[simp] theorem State.setRng_v (s : State) (r : BitVec 32) : (s.setRng r).v = s.v := rfl
@[simp] theorem State.setRng_i (s : State) (r : BitVec 32) : (s.setRng r).i = s.i := rfl
@[simp] theorem State.setRng_pc (s : State) (r : BitVec 32) : (s.setRng r).pc = s.pc := rfl
@[simp] theorem State.setRng_dt (s : State) (r : BitVec 32) : (s.setRng r).dt = s.dt := rfl
@[simp] theorem State.setRng_st (s : State) (r : BitVec 32) : (s.setRng r).st = s.st := rfl
@[simp] theorem State.setRng_sp (s : State) (r : BitVec 32) : (s.setRng r).sp = s.sp := rfl
@[simp] theorem State.setRng_stack (s : State) (r : BitVec 32) : (s.setRng r).stack = s.stack := rfl
@[simp] theorem State.setRng_disp (s : State) (r : BitVec 32) : (s.setRng r).disp = s.disp := rfl
@[simp] theorem State.setRng_rng (s : State) (r : BitVec 32) : (s.setRng r).rng = r := rfl
@[simp] theorem State.setRng_halt (s : State) (r : BitVec 32) : (s.setRng r).halt = s.halt := rfl
@[simp] theorem State.setRng_keys (s : State) (r : BitVec 32) : (s.setRng r).keys = s.keys := rfl

/-! ### After the host's key-down bits -/

@[simp] theorem State.setKeys_mem (s : State) (k : BitVec 16) : (s.setKeys k).mem = s.mem := rfl
@[simp] theorem State.setKeys_v (s : State) (k : BitVec 16) : (s.setKeys k).v = s.v := rfl
@[simp] theorem State.setKeys_i (s : State) (k : BitVec 16) : (s.setKeys k).i = s.i := rfl
@[simp] theorem State.setKeys_pc (s : State) (k : BitVec 16) : (s.setKeys k).pc = s.pc := rfl
@[simp] theorem State.setKeys_dt (s : State) (k : BitVec 16) : (s.setKeys k).dt = s.dt := rfl
@[simp] theorem State.setKeys_st (s : State) (k : BitVec 16) : (s.setKeys k).st = s.st := rfl
@[simp] theorem State.setKeys_sp (s : State) (k : BitVec 16) : (s.setKeys k).sp = s.sp := rfl
@[simp] theorem State.setKeys_stack (s : State) (k : BitVec 16) : (s.setKeys k).stack = s.stack := rfl
@[simp] theorem State.setKeys_disp (s : State) (k : BitVec 16) : (s.setKeys k).disp = s.disp := rfl
@[simp] theorem State.setKeys_rng (s : State) (k : BitVec 16) : (s.setKeys k).rng = s.rng := rfl
@[simp] theorem State.setKeys_halt (s : State) (k : BitVec 16) : (s.setKeys k).halt = s.halt := rfl
@[simp] theorem State.setKeys_keys (s : State) (k : BitVec 16) : (s.setKeys k).keys = k := rfl

/-! ### After the decode advance -/

@[simp] theorem State.advance_mem (s : State) : s.advance.mem = s.mem := rfl
@[simp] theorem State.advance_v (s : State) : s.advance.v = s.v := rfl
@[simp] theorem State.advance_i (s : State) : s.advance.i = s.i := rfl
@[simp] theorem State.advance_pc (s : State) : s.advance.pc = s.pc + 2 := rfl
@[simp] theorem State.advance_dt (s : State) : s.advance.dt = s.dt := rfl
@[simp] theorem State.advance_st (s : State) : s.advance.st = s.st := rfl
@[simp] theorem State.advance_sp (s : State) : s.advance.sp = s.sp := rfl
@[simp] theorem State.advance_stack (s : State) : s.advance.stack = s.stack := rfl
@[simp] theorem State.advance_disp (s : State) : s.advance.disp = s.disp := rfl
@[simp] theorem State.advance_rng (s : State) : s.advance.rng = s.rng := rfl
@[simp] theorem State.advance_halt (s : State) : s.advance.halt = s.halt := rfl
@[simp] theorem State.advance_keys (s : State) : s.advance.keys = s.keys := rfl

/-! ### After writing the stack pointer and the stack -/

@[simp] theorem State.setStack_mem (s : State) (p : Byte) (v : Vector Word 16) : (s.setStack p v).mem = s.mem := rfl
@[simp] theorem State.setStack_v (s : State) (p : Byte) (v : Vector Word 16) : (s.setStack p v).v = s.v := rfl
@[simp] theorem State.setStack_i (s : State) (p : Byte) (v : Vector Word 16) : (s.setStack p v).i = s.i := rfl
@[simp] theorem State.setStack_pc (s : State) (p : Byte) (v : Vector Word 16) : (s.setStack p v).pc = s.pc := rfl
@[simp] theorem State.setStack_dt (s : State) (p : Byte) (v : Vector Word 16) : (s.setStack p v).dt = s.dt := rfl
@[simp] theorem State.setStack_st (s : State) (p : Byte) (v : Vector Word 16) : (s.setStack p v).st = s.st := rfl
@[simp] theorem State.setStack_sp (s : State) (p : Byte) (v : Vector Word 16) : (s.setStack p v).sp = p := rfl
@[simp] theorem State.setStack_stack (s : State) (p : Byte) (v : Vector Word 16) : (s.setStack p v).stack = v := rfl
@[simp] theorem State.setStack_disp (s : State) (p : Byte) (v : Vector Word 16) : (s.setStack p v).disp = s.disp := rfl
@[simp] theorem State.setStack_rng (s : State) (p : Byte) (v : Vector Word 16) : (s.setStack p v).rng = s.rng := rfl
@[simp] theorem State.setStack_halt (s : State) (p : Byte) (v : Vector Word 16) : (s.setStack p v).halt = s.halt := rfl
@[simp] theorem State.setStack_keys (s : State) (p : Byte) (v : Vector Word 16) : (s.setStack p v).keys = s.keys := rfl

/-! ### After a push -/

@[simp] theorem State.push_mem (s : State) (w : Word) : (s.push w).mem = s.mem := rfl
@[simp] theorem State.push_v (s : State) (w : Word) : (s.push w).v = s.v := rfl
@[simp] theorem State.push_i (s : State) (w : Word) : (s.push w).i = s.i := rfl
@[simp] theorem State.push_pc (s : State) (w : Word) : (s.push w).pc = s.pc := rfl
@[simp] theorem State.push_dt (s : State) (w : Word) : (s.push w).dt = s.dt := rfl
@[simp] theorem State.push_st (s : State) (w : Word) : (s.push w).st = s.st := rfl
@[simp] theorem State.push_sp (s : State) (w : Word) : (s.push w).sp = s.sp + 1 := rfl
@[simp] theorem State.push_stack (s : State) (w : Word) : (s.push w).stack = s.stack.setIfInBounds (s.sp.toNat + 1) w := rfl
@[simp] theorem State.push_disp (s : State) (w : Word) : (s.push w).disp = s.disp := rfl
@[simp] theorem State.push_rng (s : State) (w : Word) : (s.push w).rng = s.rng := rfl
@[simp] theorem State.push_halt (s : State) (w : Word) : (s.push w).halt = s.halt := rfl
@[simp] theorem State.push_keys (s : State) (w : Word) : (s.push w).keys = s.keys := rfl

/-! ### After a pop -/

@[simp] theorem State.pop_mem (s : State) : s.pop.mem = s.mem := rfl
@[simp] theorem State.pop_v (s : State) : s.pop.v = s.v := rfl
@[simp] theorem State.pop_i (s : State) : s.pop.i = s.i := rfl
@[simp] theorem State.pop_pc (s : State) : s.pop.pc = s.pc := rfl
@[simp] theorem State.pop_dt (s : State) : s.pop.dt = s.dt := rfl
@[simp] theorem State.pop_st (s : State) : s.pop.st = s.st := rfl
@[simp] theorem State.pop_sp (s : State) : s.pop.sp = s.sp - 1 := rfl
@[simp] theorem State.pop_stack (s : State) : s.pop.stack = s.stack := rfl
@[simp] theorem State.pop_disp (s : State) : s.pop.disp = s.disp := rfl
@[simp] theorem State.pop_rng (s : State) : s.pop.rng = s.rng := rfl
@[simp] theorem State.pop_halt (s : State) : s.pop.halt = s.halt := rfl
@[simp] theorem State.pop_keys (s : State) : s.pop.keys = s.keys := rfl

/-! ### After taking a fault -/

@[simp] theorem State.takeFault_mem (s : State) (f : Fault) : (s.takeFault f).mem = s.mem := rfl
@[simp] theorem State.takeFault_v (s : State) (f : Fault) : (s.takeFault f).v = s.v := rfl
@[simp] theorem State.takeFault_i (s : State) (f : Fault) : (s.takeFault f).i = s.i := rfl
@[simp] theorem State.takeFault_pc (s : State) (f : Fault) : (s.takeFault f).pc = s.pc := rfl
@[simp] theorem State.takeFault_dt (s : State) (f : Fault) : (s.takeFault f).dt = s.dt := rfl
@[simp] theorem State.takeFault_st (s : State) (f : Fault) : (s.takeFault f).st = s.st := rfl
@[simp] theorem State.takeFault_sp (s : State) (f : Fault) : (s.takeFault f).sp = s.sp := rfl
@[simp] theorem State.takeFault_stack (s : State) (f : Fault) : (s.takeFault f).stack = s.stack := rfl
@[simp] theorem State.takeFault_disp (s : State) (f : Fault) : (s.takeFault f).disp = s.disp := rfl
@[simp] theorem State.takeFault_rng (s : State) (f : Fault) : (s.takeFault f).rng = s.rng := rfl
@[simp] theorem State.takeFault_halt (s : State) (f : Fault) : (s.takeFault f).halt = some f := rfl
@[simp] theorem State.takeFault_keys (s : State) (f : Fault) : (s.takeFault f).keys = s.keys := rfl

/-! ### After the bulk load, a skip, a result with its flag, a tick -/

@[simp] theorem State.loadRegs_mem (s : State) (base : Nat) (x : Reg) : (s.loadRegs base x).mem = s.mem := rfl
@[simp] theorem State.loadRegs_i (s : State) (base : Nat) (x : Reg) : (s.loadRegs base x).i = s.i := rfl
@[simp] theorem State.loadRegs_pc (s : State) (base : Nat) (x : Reg) : (s.loadRegs base x).pc = s.pc := rfl
@[simp] theorem State.loadRegs_dt (s : State) (base : Nat) (x : Reg) : (s.loadRegs base x).dt = s.dt := rfl
@[simp] theorem State.loadRegs_st (s : State) (base : Nat) (x : Reg) : (s.loadRegs base x).st = s.st := rfl
@[simp] theorem State.loadRegs_sp (s : State) (base : Nat) (x : Reg) : (s.loadRegs base x).sp = s.sp := rfl
@[simp] theorem State.loadRegs_stack (s : State) (base : Nat) (x : Reg) : (s.loadRegs base x).stack = s.stack := rfl
@[simp] theorem State.loadRegs_disp (s : State) (base : Nat) (x : Reg) : (s.loadRegs base x).disp = s.disp := rfl
@[simp] theorem State.loadRegs_rng (s : State) (base : Nat) (x : Reg) : (s.loadRegs base x).rng = s.rng := rfl
@[simp] theorem State.loadRegs_halt (s : State) (base : Nat) (x : Reg) : (s.loadRegs base x).halt = s.halt := rfl
@[simp] theorem State.loadRegs_keys (s : State) (base : Nat) (x : Reg) : (s.loadRegs base x).keys = s.keys := rfl

@[simp] theorem State.skipIf_mem (s : State) (c : Bool) : (s.skipIf c).mem = s.mem := by cases c <;> rfl
@[simp] theorem State.skipIf_v (s : State) (c : Bool) : (s.skipIf c).v = s.v := by cases c <;> rfl
@[simp] theorem State.skipIf_i (s : State) (c : Bool) : (s.skipIf c).i = s.i := by cases c <;> rfl
@[simp] theorem State.skipIf_pc (s : State) (c : Bool) : (s.skipIf c).pc = if c then s.pc + 2 else s.pc := by cases c <;> rfl
@[simp] theorem State.skipIf_dt (s : State) (c : Bool) : (s.skipIf c).dt = s.dt := by cases c <;> rfl
@[simp] theorem State.skipIf_st (s : State) (c : Bool) : (s.skipIf c).st = s.st := by cases c <;> rfl
@[simp] theorem State.skipIf_sp (s : State) (c : Bool) : (s.skipIf c).sp = s.sp := by cases c <;> rfl
@[simp] theorem State.skipIf_stack (s : State) (c : Bool) : (s.skipIf c).stack = s.stack := by cases c <;> rfl
@[simp] theorem State.skipIf_disp (s : State) (c : Bool) : (s.skipIf c).disp = s.disp := by cases c <;> rfl
@[simp] theorem State.skipIf_rng (s : State) (c : Bool) : (s.skipIf c).rng = s.rng := by cases c <;> rfl
@[simp] theorem State.skipIf_halt (s : State) (c : Bool) : (s.skipIf c).halt = s.halt := by cases c <;> rfl
@[simp] theorem State.skipIf_keys (s : State) (c : Bool) : (s.skipIf c).keys = s.keys := by cases c <;> rfl

@[simp] theorem State.writeResultFlag_mem (s : State) (x : Reg) (r : Byte) (c : Bool) :
    (s.writeResultFlag x r c).mem = s.mem := rfl
@[simp] theorem State.writeResultFlag_i (s : State) (x : Reg) (r : Byte) (c : Bool) :
    (s.writeResultFlag x r c).i = s.i := rfl
@[simp] theorem State.writeResultFlag_pc (s : State) (x : Reg) (r : Byte) (c : Bool) :
    (s.writeResultFlag x r c).pc = s.pc := rfl
@[simp] theorem State.writeResultFlag_dt (s : State) (x : Reg) (r : Byte) (c : Bool) :
    (s.writeResultFlag x r c).dt = s.dt := rfl
@[simp] theorem State.writeResultFlag_st (s : State) (x : Reg) (r : Byte) (c : Bool) :
    (s.writeResultFlag x r c).st = s.st := rfl
@[simp] theorem State.writeResultFlag_sp (s : State) (x : Reg) (r : Byte) (c : Bool) :
    (s.writeResultFlag x r c).sp = s.sp := rfl
@[simp] theorem State.writeResultFlag_stack (s : State) (x : Reg) (r : Byte) (c : Bool) :
    (s.writeResultFlag x r c).stack = s.stack := rfl
@[simp] theorem State.writeResultFlag_disp (s : State) (x : Reg) (r : Byte) (c : Bool) :
    (s.writeResultFlag x r c).disp = s.disp := rfl
@[simp] theorem State.writeResultFlag_rng (s : State) (x : Reg) (r : Byte) (c : Bool) :
    (s.writeResultFlag x r c).rng = s.rng := rfl
@[simp] theorem State.writeResultFlag_halt (s : State) (x : Reg) (r : Byte) (c : Bool) :
    (s.writeResultFlag x r c).halt = s.halt := rfl
@[simp] theorem State.writeResultFlag_keys (s : State) (x : Reg) (r : Byte) (c : Bool) :
    (s.writeResultFlag x r c).keys = s.keys := rfl

@[simp] theorem tick_mem (s : State) : (tick s).mem = s.mem := rfl
@[simp] theorem tick_v (s : State) : (tick s).v = s.v := rfl
@[simp] theorem tick_i (s : State) : (tick s).i = s.i := rfl
@[simp] theorem tick_pc (s : State) : (tick s).pc = s.pc := rfl
@[simp] theorem tick_dt (s : State) : (tick s).dt = countDown s.dt := rfl
@[simp] theorem tick_st (s : State) : (tick s).st = countDown s.st := rfl
@[simp] theorem tick_sp (s : State) : (tick s).sp = s.sp := rfl
@[simp] theorem tick_stack (s : State) : (tick s).stack = s.stack := rfl
@[simp] theorem tick_disp (s : State) : (tick s).disp = s.disp := rfl
@[simp] theorem tick_rng (s : State) : (tick s).rng = s.rng := rfl
@[simp] theorem tick_halt (s : State) : (tick s).halt = s.halt := rfl
@[simp] theorem tick_keys (s : State) : (tick s).keys = s.keys := rfl

/-! ### The operand accessors, in terms of the fields -/

theorem State.indexAddr_eq (s : State) : s.indexAddr = s.i.toNat := rfl
theorem State.instrAddr_eq (s : State) : s.instrAddr = s.pc - 2 := rfl
theorem State.keyDown_eq (s : State) (k : Key) : s.keyDown k = s.keys.getLsbD k := rfl
theorem State.advance_eq (s : State) : s.advance = s.setPc (s.pc + 2) := rfl

/-! ### Registers read through the accessor -/

theorem State.reg_setReg (s : State) (x y : Reg) (b : Byte) :
    (s.setReg x b).reg y = if y = x then b else s.reg y := by
  simp only [State.reg, State.setReg_v, Fin.getElem_fin, Vector.getElem_set, Fin.ext_iff, eq_comm]

@[simp] theorem State.reg_setReg_same (s : State) (x : Reg) (b : Byte) : (s.setReg x b).reg x = b := by
  simp [State.reg_setReg]

theorem State.reg_setReg_other (s : State) {x y : Reg} (b : Byte) (h : y ≠ x) : (s.setReg x b).reg y = s.reg y := by
  simp [State.reg_setReg, h]

/-- With destination `VF` the flag is what `VF` keeps (R54). -/
theorem State.reg_writeResultFlag (s : State) (x y : Reg) (r : Byte) (c : Bool) :
    (s.writeResultFlag x r c).reg y = if y = 15 then flagByte c else if y = x then r else s.reg y := by
  simp only [State.writeResultFlag, State.reg_setReg, Config.flagReg]

theorem State.reg_loadRegs (s : State) (base : Nat) (x y : Reg) :
    (s.loadRegs base x).reg y = if y ≤ x then s.mem.read (base + y) else s.reg y := by
  simp [State.reg, State.loadRegs]

@[simp] theorem State.reg_setIndex (s : State) (w : Word) (y : Reg) : (s.setIndex w).reg y = s.reg y := rfl
@[simp] theorem State.reg_setPc (s : State) (w : Word) (y : Reg) : (s.setPc w).reg y = s.reg y := rfl
@[simp] theorem State.reg_setDelay (s : State) (b : Byte) (y : Reg) : (s.setDelay b).reg y = s.reg y := rfl
@[simp] theorem State.reg_setSound (s : State) (b : Byte) (y : Reg) : (s.setSound b).reg y = s.reg y := rfl
@[simp] theorem State.reg_setMem (s : State) (m : Memory) (y : Reg) : (s.setMem m).reg y = s.reg y := rfl
@[simp] theorem State.reg_setDisp (s : State) (d : Display) (y : Reg) : (s.setDisp d).reg y = s.reg y := rfl
@[simp] theorem State.reg_setRng (s : State) (r : BitVec 32) (y : Reg) : (s.setRng r).reg y = s.reg y := rfl
@[simp] theorem State.reg_setKeys (s : State) (k : BitVec 16) (y : Reg) : (s.setKeys k).reg y = s.reg y := rfl
@[simp] theorem State.reg_setStack (s : State) (p : Byte) (v : Vector Word 16) (y : Reg) :
    (s.setStack p v).reg y = s.reg y := rfl
@[simp] theorem State.reg_advance (s : State) (y : Reg) : s.advance.reg y = s.reg y := rfl
@[simp] theorem State.reg_push (s : State) (w : Word) (y : Reg) : (s.push w).reg y = s.reg y := rfl
@[simp] theorem State.reg_pop (s : State) (y : Reg) : s.pop.reg y = s.reg y := rfl
@[simp] theorem State.reg_takeFault (s : State) (f : Fault) (y : Reg) : (s.takeFault f).reg y = s.reg y := rfl
@[simp] theorem State.reg_skipIf (s : State) (c : Bool) (y : Reg) : (s.skipIf c).reg y = s.reg y := by cases c <;> rfl
@[simp] theorem State.reg_tick (s : State) (y : Reg) : (tick s).reg y = s.reg y := rfl

end Sys2Proof.Machine
end

