-- ==== Sys2Proof/Laws/Display.lean ====
section
/-! SUPPORT. The laws of the display: reading a pixel after setting one, and what a whole blit does to every pixel and
to the collision (R72 to R74). -/

namespace Sys2Proof.Machine

theorem Display.pixel_setPixel (d : Display) (x x' : Fin 64) (y y' : Fin 32) (b : Bool) :
    (d.setPixel x y b).pixel x' y' = if x' = x ∧ y' = y then b else d.pixel x' y' := by
  unfold Display.pixel Display.setPixel
  simp only [Fin.getElem_fin, Vector.getElem_set, Fin.ext_iff]
  by_cases hx : x.val = x'.val
  · have hx' : x = x' := Fin.ext hx
    subst hx'
    by_cases hy : y.val = y'.val <;> simp [hy, eq_comm]
  · simp [hx, eq_comm]

@[simp] theorem Display.pixel_blank (x : Fin 64) (y : Fin 32) : Display.blank.pixel x y = false := by
  simp [Display.pixel, Display.blank]

/-- Displays that read alike are equal. -/
theorem Display.eq_of_pixel {d e : Display} (h : ∀ x y, d.pixel x y = e.pixel x y) : d = e := by
  apply Vector.ext
  intro x hx
  apply Vector.ext
  intro y hy
  exact h ⟨x, hx⟩ ⟨y, hy⟩

/-- The sprite's bits, row by row and left to right, as pairs (row, column). -/
def spriteBits (n : Nat) : List (Nat × Nat) := (List.range n).flatMap fun dy => (List.range 8).map fun dx => (dy, dx)

theorem mem_spriteBits {n : Nat} {p : Nat × Nat} : p ∈ spriteBits n ↔ p.1 < n ∧ p.2 < 8 := by
  obtain ⟨dy, dx⟩ := p
  simp [spriteBits]

theorem nodup_spriteBits (n : Nat) : (spriteBits n).Nodup := by
  unfold spriteBits
  rw [List.nodup_flatMap]
  refine ⟨fun dy _ => List.Nodup.map (fun a b h => (Prod.mk.inj h).2) List.nodup_range, ?_⟩
  refine List.Pairwise.imp ?_ (List.nodup_range (n := n))
  intro a b hab
  simp only [Function.onFun, List.disjoint_left, List.mem_map, List.mem_range, not_exists, not_and]
  rintro p ⟨c, _, rfl⟩ e _ h
  exact hab (Prod.mk.inj h).1.symm

/-- The pixel a sprite bit falls on (R72). -/
def spriteTarget (cx cy : Byte) (p : Nat × Nat) : Fin 64 × Fin 32 := (spriteColumn cx p.2, spriteRow cy p.1)

/-- Different bits of one sprite fall on different pixels (R74). -/
theorem spriteTarget_ne {cx cy : Byte} {p q : Nat × Nat} (hp : p.1 < 16 ∧ p.2 < 8) (hq : q.1 < 16 ∧ q.2 < 8)
    (h : p ≠ q) : spriteTarget cx cy p ≠ spriteTarget cx cy q := by
  intro he
  apply h
  simp only [spriteTarget, spriteColumn, spriteRow, Prod.mk.injEq, Fin.ext_iff, Fin.val_ofNat] at he
  exact Prod.ext (by omega) (by omega)

/-- Is this bit of the sprite at `base` a 1? -/
def spriteBit (mem : Memory) (base : Nat) (p : Nat × Nat) : Bool := (mem.read (base + p.1)).getLsbD (7 - p.2)

theorem blit_eq_foldl (mem : Memory) (base : Nat) (cx cy : Byte) (n : Nat) (d : Display) :
    blit mem base cx cy n d =
      (spriteBits n).foldl (fun acc p => blitBit cx cy (mem.read (base + p.1)) p.1 acc p.2) (d, false) := by
  unfold blit spriteBits
  rw [List.foldl_flatMap]
  congr 1

theorem blitBit_eq (mem : Memory) (base : Nat) (cx cy : Byte) (p : Nat × Nat) (d : Display) (c : Bool) :
    blitBit cx cy (mem.read (base + p.1)) p.1 (d, c) p.2 =
      if spriteBit mem base p then
        (d.setPixel (spriteTarget cx cy p).1 (spriteTarget cx cy p).2
          (!d.pixel (spriteTarget cx cy p).1 (spriteTarget cx cy p).2),
          c || d.pixel (spriteTarget cx cy p).1 (spriteTarget cx cy p).2)
      else (d, c) := rfl

/-- Blitting a list of bits that fall on different pixels: each pixel is toggled by the 1 bit that falls on it, if
there is one, and the collision says whether some 1 bit fell on a pixel that was on. -/
theorem foldl_blitBit (mem : Memory) (base : Nat) (cx cy : Byte) (L : List (Nat × Nat))
    (hL : L.Pairwise fun p q => spriteTarget cx cy p ≠ spriteTarget cx cy q) (d : Display) (c : Bool) :
    (∀ px py, (L.foldl (fun acc p => blitBit cx cy (mem.read (base + p.1)) p.1 acc p.2) (d, c)).1.pixel px py =
      (d.pixel px py ^^ L.any fun p => spriteBit mem base p && spriteTarget cx cy p == (px, py))) ∧
    (L.foldl (fun acc p => blitBit cx cy (mem.read (base + p.1)) p.1 acc p.2) (d, c)).2 =
      (c || L.any fun p => spriteBit mem base p && d.pixel (spriteTarget cx cy p).1 (spriteTarget cx cy p).2) := by
  induction L generalizing d c with
  | nil => simp
  | cons p L ih =>
    obtain ⟨hp, hL⟩ := List.pairwise_cons.1 hL
    rw [List.foldl_cons, blitBit_eq]
    cases hb : spriteBit mem base p with
    | false =>
      obtain ⟨h1, h2⟩ := ih hL d c
      simp only [Bool.false_eq_true, if_false]
      refine ⟨fun px py => ?_, ?_⟩
      · rw [h1]; simp [hb]
      · rw [h2]; simp [hb]
    | true =>
      simp only [if_true]
      generalize hd : d.setPixel (spriteTarget cx cy p).1 (spriteTarget cx cy p).2
          (!d.pixel (spriteTarget cx cy p).1 (spriteTarget cx cy p).2) = d'
      obtain ⟨h1, h2⟩ := ih hL d' (c || d.pixel (spriteTarget cx cy p).1 (spriteTarget cx cy p).2)
      refine ⟨fun px py => ?_, ?_⟩
      · rw [h1, ← hd, Display.pixel_setPixel]
        by_cases ht : px = (spriteTarget cx cy p).1 ∧ py = (spriteTarget cx cy p).2
        · obtain ⟨rfl, rfl⟩ := ht
          have hn : (L.any fun q => spriteBit mem base q && spriteTarget cx cy q == spriteTarget cx cy p) = false := by
            simp only [List.any_eq_false, Bool.and_eq_true, beq_iff_eq, not_and]
            exact fun q hq _ h => hp q hq h.symm
          simp [hb, hn]
        · have hne : ¬ spriteTarget cx cy p = (px, py) := fun h => ht ⟨by rw [h], by rw [h]⟩
          simp [hb, ht, hne]
      · rw [h2, List.any_cons, hb, Bool.true_and, Bool.or_assoc]
        congr 2
        rw [Bool.eq_iff_iff, List.any_eq_true, List.any_eq_true]
        have key : ∀ q ∈ L, d'.pixel (spriteTarget cx cy q).1 (spriteTarget cx cy q).2 =
            d.pixel (spriteTarget cx cy q).1 (spriteTarget cx cy q).2 := by
          intro q hq
          rw [← hd, Display.pixel_setPixel, if_neg]
          exact fun h => hp q hq (Prod.ext h.1 h.2).symm
        constructor
        · rintro ⟨q, hq, h⟩; exact ⟨q, hq, by rw [key q hq] at h; exact h⟩
        · rintro ⟨q, hq, h⟩; exact ⟨q, hq, by rw [key q hq]; exact h⟩

/-- What a blit of at most 15 rows does: every pixel on which a 1 bit of the sprite falls is toggled and no other is;
the collision says whether such a pixel was on (R72 to R74). -/
theorem blit_law (mem : Memory) (base : Nat) (cx cy : Byte) (n : Nat) (hn : n < 16) (d : Display) :
    (∀ px py, (blit mem base cx cy n d).1.pixel px py =
      (d.pixel px py ^^ (spriteBits n).any fun p => spriteBit mem base p && spriteTarget cx cy p == (px, py))) ∧
    (blit mem base cx cy n d).2 =
      (spriteBits n).any fun p => spriteBit mem base p && d.pixel (spriteTarget cx cy p).1 (spriteTarget cx cy p).2 := by
  have hL : (spriteBits n).Pairwise fun p q => spriteTarget cx cy p ≠ spriteTarget cx cy q := by
    refine List.Pairwise.imp_of_mem ?_ (nodup_spriteBits n)
    intro p q hp hq hne
    rw [mem_spriteBits] at hp hq
    exact spriteTarget_ne ⟨by omega, hp.2⟩ ⟨by omega, hq.2⟩ hne
  rw [blit_eq_foldl]
  simpa using foldl_blitBit mem base cx cy (spriteBits n) hL d false

/-- The sprite bit that falls on a pixel, in the words of `SpriteCovers`. -/
theorem spriteCovers_iff (s : State) (cx cy : Byte) (n : Height) (px : Fin 64) (py : Fin 32) :
    SpriteCovers s cx cy n px py ↔
      ((spriteBits n).any fun p => spriteBit s.mem s.i.toNat p && spriteTarget cx cy p == (px, py)) = true := by
  simp only [SpriteCovers, List.any_eq_true, Bool.and_eq_true, beq_iff_eq, spriteTarget, Prod.mk.injEq, spriteColumn,
    spriteRow, Fin.ext_iff, Fin.val_ofNat, mem_spriteBits, spriteBit]
  constructor
  · rintro ⟨dx, dy, h1, h2, h3, h4, h5⟩
    exact ⟨(dy, dx), ⟨h2, h1⟩, h5, h3.symm, h4.symm⟩
  · rintro ⟨⟨dy, dx⟩, ⟨h2, h1⟩, h5, h3, h4⟩
    exact ⟨dx, dy, h1, h2, h3.symm, h4.symm, h5⟩

end Sys2Proof.Machine
end

