-- ==== Sys2Proof/Laws/Ops.lean ====
section
/-! SUPPORT. One law for each shared operation: what it answers, in every case. -/

namespace Sys2Proof.Machine

/-! ### Faults and the bounds check -/

/-- Raising a fault answers a next state with `HALT` set and nothing else changed (R98, R99). -/
theorem raise_eq (s : State) (f : Word → Fault) : raise s f = .next (s.takeFault (f (s.pc - 2))) := rfl

/-- No address of the access is out of range exactly when there is none or the last is below 4096 (R31). -/
theorem firstOutOfRange_eq_none {base len : Nat} :
    firstOutOfRange base len = none ↔ len = 0 ∨ base + len ≤ 4096 := by
  unfold firstOutOfRange
  split <;> simp_all [Config.memSize]

/-- Else the lowest one is the base itself, or 4096 (R31). -/
theorem firstOutOfRange_eq_some {base len a : Nat} :
    firstOutOfRange base len = some a ↔ len ≠ 0 ∧ 4096 < base + len ∧ a = max base 4096 := by
  unfold firstOutOfRange
  split <;> simp_all [Config.memSize]
  · intro h1 h2; omega
  · exact eq_comm

theorem withAccess_of_inRange {s : State} {base len : Nat} {k : Host.Outcome State Fault Refusal}
    (h : len = 0 ∨ base + len ≤ 4096) : withAccess s base len k = k := by
  simp only [withAccess, firstOutOfRange_eq_none.2 h]

theorem withAccess_of_outOfRange {s : State} {base len : Nat} {k : Host.Outcome State Fault Refusal}
    (h0 : len ≠ 0) (h : 4096 < base + len) :
    withAccess s base len k = .next (s.takeFault (.outOfBoundsAccess (max base 4096) (s.pc - 2))) := by
  simp only [withAccess, firstOutOfRange_eq_some.2 ⟨h0, h, rfl⟩, raise_eq]

/-- Everything a checked access can answer: its own outcome when every address is in range, else the fault of the
lowest address out of range (R31). -/
theorem withAccess_cases (s : State) (base len : Nat) (k : Host.Outcome State Fault Refusal) :
    ((len = 0 ∨ base + len ≤ 4096) ∧ withAccess s base len k = k) ∨
    (len ≠ 0 ∧ 4096 < base + len ∧
      withAccess s base len k = .next (s.takeFault (.outOfBoundsAccess (max base 4096) (s.pc - 2)))) := by
  by_cases h : len = 0 ∨ base + len ≤ 4096
  · exact .inl ⟨h, withAccess_of_inRange h⟩
  · exact .inr ⟨by omega, by omega, withAccess_of_outOfRange (by omega) (by omega)⟩

/-- The same, read from an answer: what the state after a checked access can be. -/
theorem withAccess_next {s t : State} {base len : Nat} {k : Host.Outcome State Fault Refusal}
    (h : withAccess s base len k = .next t) :
    ((len = 0 ∨ base + len ≤ 4096) ∧ k = .next t) ∨
    (len ≠ 0 ∧ 4096 < base + len ∧ t = s.takeFault (.outOfBoundsAccess (max base 4096) (s.pc - 2))) := by
  rcases withAccess_cases s base len k with ⟨hr, e⟩ | ⟨h0, hr, e⟩
  · exact .inl ⟨hr, e.symm.trans h⟩
  · rw [e] at h
    cases h
    exact .inr ⟨h0, hr, rfl⟩

@[simp] theorem Fault.addr_invalidOpcode (w a : Word) : (Fault.invalidOpcode w a).addr = a := rfl
@[simp] theorem Fault.addr_outOfBoundsAccess (n : Nat) (a : Word) : (Fault.outOfBoundsAccess n a).addr = a := rfl
@[simp] theorem Fault.addr_stackOverflow (a : Word) : (Fault.stackOverflow a).addr = a := rfl
@[simp] theorem Fault.addr_stackUnderflow (a : Word) : (Fault.stackUnderflow a).addr = a := rfl
@[simp] theorem Fault.addr_invalidDigit (v : Byte) (a : Word) : (Fault.invalidDigit v a).addr = a := rfl
@[simp] theorem Fault.addr_invalidKey (v : Byte) (a : Word) : (Fault.invalidKey v a).addr = a := rfl

/-! ### Fetch and step -/

theorem fetch_of_inRange {s : State} (h : s.pc.toNat + 1 < 4096) :
    fetch s = .ok (wordOfBytes (s.mem.read s.pc.toNat) (s.mem.read (s.pc.toNat + 1))) := by
  simp only [fetch, firstOutOfRange_eq_none.2 (show 2 = 0 ∨ s.pc.toNat + 2 ≤ 4096 by omega)]

theorem fetch_of_outOfRange {s : State} (h : 4095 ≤ s.pc.toNat) :
    fetch s = .error (.outOfBoundsAccess (max s.pc.toNat 4096) s.pc) := by
  simp only [fetch, firstOutOfRange_eq_some.2 (show 2 ≠ 0 ∧ 4096 < s.pc.toNat + 2 ∧ _ by
    exact ⟨by decide, by omega, rfl⟩)]

/-- The decoder gives one refusal only: the word itself. -/
theorem decode_error {w : Word} {e : DecodeError} (h : decode w = .error e) : e = .invalidOpcode w := by
  unfold decode decodeFamily0 decodeFamily5 decodeFamily8 decodeFamily9 decodeFamilyE decodeFamilyF at h
  split at h <;> (try split at h) <;> simp_all

/-- Everything a step can answer (R45, R101). -/
theorem step_cases (s : State) :
    (∃ f, s.halt = some f ∧ step s = .fault f) ∨
    (s.halt = none ∧ 4095 ≤ s.pc.toNat ∧
      step s = .next (s.takeFault (.outOfBoundsAccess (max s.pc.toNat 4096) s.pc))) ∨
    (s.halt = none ∧ s.pc.toNat + 1 < 4096 ∧ ∃ w, fetch s = .ok w ∧
      ((decode w = .error (.invalidOpcode w) ∧ step s = .next (s.takeFault (.invalidOpcode w s.pc))) ∨
       ∃ i, decode w = .ok i ∧ step s = exec i s.advance)) := by
  cases hh : s.halt with
  | some f => exact .inl ⟨f, rfl, by simp only [step, hh]⟩
  | none =>
    refine .inr ?_
    by_cases hp : 4095 ≤ s.pc.toNat
    · exact .inl ⟨rfl, hp, by simp only [step, hh, fetchDecode, fetch_of_outOfRange hp]⟩
    · refine .inr ⟨rfl, by omega, _, fetch_of_inRange (by omega), ?_⟩
      cases hd : decode (wordOfBytes (s.mem.read s.pc.toNat) (s.mem.read (s.pc.toNat + 1))) with
      | error e =>
        have he := decode_error hd
        subst he
        exact .inl ⟨rfl, by simp only [step, hh, fetchDecode, fetch_of_inRange (show s.pc.toNat + 1 < 4096 by omega), hd]⟩
      | ok i =>
        exact .inr ⟨i, rfl, by
          simp only [step, hh, fetchDecode, fetch_of_inRange (show s.pc.toNat + 1 < 4096 by omega), hd]⟩

/-! ### The call stack -/

theorem State.stackTop_of_lt {s : State} (h : s.sp.toNat < 16) : s.stackTop = s.stack[s.sp.toNat] := dif_pos h

/-- The slots after a push: slot `SP + 1` holds the pushed value, every other slot is unchanged (R80). -/
theorem State.push_slot (s : State) (w : Word) (k : Fin 16) :
    (s.push w).stack[k] = if k.val = s.sp.toNat + 1 then w else s.stack[k] := by
  simp only [State.push_stack, Fin.getElem_fin, Vector.getElem_setIfInBounds, eq_comm]

/-! ### Flags -/

@[simp] theorem flagByte_true : flagByte true = 1 := rfl
@[simp] theorem flagByte_false : flagByte false = 0 := rfl

/-! ### The keypad -/

theorem mem_downKeys {keys : BitVec 16} {k : Key} : k ∈ downKeys keys ↔ keys.getLsbD k = true := by
  simp [downKeys]

/-- The key chosen is a down key (R96). -/
theorem keyChoice_down {keys : BitVec 16} {k : Key} (h : keyChoice keys = some k) : keys.getLsbD k = true := by
  unfold keyChoice at h
  split at h
  · cases h
  · cases h; exact mem_downKeys.1 (by simp [*])
  · cases h
    split
    · assumption
    · exact mem_downKeys.1 (by simp [*])

/-- There is no key to choose exactly when no key is down (R96). -/
theorem keyChoice_eq_none {keys : BitVec 16} : keyChoice keys = none ↔ ∀ k : Key, keys.getLsbD k = false := by
  constructor
  · intro h k
    unfold keyChoice at h
    split at h
    · rename_i hn
      by_contra hk
      have := mem_downKeys.2 (by simpa using hk : keys.getLsbD k = true)
      simp [hn] at this
    · cases h
    · cases h
  · intro h
    cases hc : keyChoice keys with
    | none => rfl
    | some k => exact absurd (keyChoice_down hc) (by rw [h k]; decide)

@[simp] theorem keyChoice_zero : keyChoice 0#16 = none := keyChoice_eq_none.2 fun _ => BitVec.getLsbD_zero

/-- With some key down a key is chosen (R96). -/
theorem keyChoice_of_ne_zero {keys : BitVec 16} (h : keys ≠ 0) : ∃ k, keyChoice keys = some k := by
  cases hc : keyChoice keys with
  | some k => exact ⟨k, rfl⟩
  | none =>
    rw [keyChoice_eq_none] at hc
    refine absurd ?_ h
    apply BitVec.eq_of_getLsbD_eq
    intro i hi
    rw [hc ⟨i, hi⟩]
    exact BitVec.getLsbD_zero.symm

/-! ### The random source -/

/-- The source's next state, exactly (R75). -/
theorem lcgNext_toNat (r : BitVec 32) : (lcgNext r).toNat = (r.toNat * 1103515245 + 12345) % 2 ^ 31 := by
  simp only [lcgNext, Config.lcgMultiplier, Config.lcgIncrement, Config.lcgModulus, BitVec.toNat_ofNat]
  rw [Nat.add_comm, Nat.mul_comm]
  omega

/-- The next state depends on the state modulo 2^31 only (R75, D20). -/
theorem lcgNext_congr {r q : BitVec 32} (h : r.toNat % 2 ^ 31 = q.toNat % 2 ^ 31) : lcgNext r = lcgNext q := by
  apply BitVec.eq_of_toNat_eq
  rw [lcgNext_toNat, lcgNext_toNat]
  omega

/-- The source's byte, exactly (R76). -/
theorem lcgByte_toNat (r : BitVec 32) : (lcgByte r).toNat = r.toNat / 256 % 256 := by
  simp [lcgByte, BitVec.extractLsb'_toNat, Nat.shiftRight_eq_div_pow]

/-! ### Operands -/

@[simp] theorem addrOperand_toNat (nnn : Addr12) : (addrOperand nnn).toNat = nnn.toNat := by
  simp only [addrOperand, BitVec.toNat_setWidth]
  omega

@[simp] theorem State.regWide_toNat (s : State) (x : Reg) : (s.regWide x).toNat = (s.reg x).toNat := by
  simp only [State.regWide, BitVec.toNat_setWidth]
  omega

@[simp] theorem bcdDigits_length (v : Byte) : (bcdDigits v).length = 3 := rfl

@[simp] theorem State.regsUpTo_length (s : State) (x : Reg) : (s.regsUpTo x).length = x + 1 := by
  simp only [State.regsUpTo, List.length_take, Vector.length_toList]
  omega

theorem State.regsUpTo_getD (s : State) (x y : Reg) (h : y ≤ x) : (s.regsUpTo x).getD y 0 = s.reg y := by
  have hy : y.val < (s.regsUpTo x).length := by
    rw [State.regsUpTo_length]
    exact Nat.lt_succ_of_le h
  rw [List.getD_eq_getElem _ _ hy]
  simp [State.regsUpTo, State.reg]

/-! ### Parts and frames -/

/-- A part of an unchanged state reads the same. -/
theorem Part.same_refl (s : State) (p : Part) : p.same s s := by
  cases p <;> simp [Part.same]

end Sys2Proof.Machine
end

