-- ==== Sys2Proof/Laws/PerInstr.lean ====
section
/-! SUPPORT. The family EncodingBits: the bits of an instruction's word that spec/opcode_table.json fixes for its row
are what the encoder gives. One lemma per constructor. -/

namespace Sys2Proof.Laws.EncodingBits

/-- The fixed fields of the instruction's row of spec/opcode_table.json, as (hi, lo, value). -/
def fixedFields : Instr → List (Nat × Nat × Nat)
  | .sys _ => [(15, 12, 0x0)]
  | .cls => [(15, 0, 0xe0)]
  | .ret => [(15, 0, 0xee)]
  | .jp _ => [(15, 12, 0x1)]
  | .call _ => [(15, 12, 0x2)]
  | .seVxByte _ _ => [(15, 12, 0x3)]
  | .sneVxByte _ _ => [(15, 12, 0x4)]
  | .seVxVy _ _ => [(3, 0, 0x0), (15, 12, 0x5)]
  | .ldVxByte _ _ => [(15, 12, 0x6)]
  | .addVxByte _ _ => [(15, 12, 0x7)]
  | .ldVxVy _ _ => [(3, 0, 0x0), (15, 12, 0x8)]
  | .orVxVy _ _ => [(3, 0, 0x1), (15, 12, 0x8)]
  | .andVxVy _ _ => [(3, 0, 0x2), (15, 12, 0x8)]
  | .xorVxVy _ _ => [(3, 0, 0x3), (15, 12, 0x8)]
  | .addVxVy _ _ => [(3, 0, 0x4), (15, 12, 0x8)]
  | .subVxVy _ _ => [(3, 0, 0x5), (15, 12, 0x8)]
  | .shrVx _ _ => [(3, 0, 0x6), (15, 12, 0x8)]
  | .subnVxVy _ _ => [(3, 0, 0x7), (15, 12, 0x8)]
  | .shlVx _ _ => [(3, 0, 0xe), (15, 12, 0x8)]
  | .sneVxVy _ _ => [(3, 0, 0x0), (15, 12, 0x9)]
  | .ldIAddr _ => [(15, 12, 0xa)]
  | .jpV0Addr _ => [(15, 12, 0xb)]
  | .rnd _ _ => [(15, 12, 0xc)]
  | .drw _ _ _ => [(15, 12, 0xd)]
  | .skpVx _ => [(7, 0, 0x9e), (15, 12, 0xe)]
  | .sknpVx _ => [(7, 0, 0xa1), (15, 12, 0xe)]
  | .ldVxDt _ => [(7, 0, 0x7), (15, 12, 0xf)]
  | .ldVxK _ => [(7, 0, 0xa), (15, 12, 0xf)]
  | .ldDtVx _ => [(7, 0, 0x15), (15, 12, 0xf)]
  | .ldStVx _ => [(7, 0, 0x18), (15, 12, 0xf)]
  | .addIVx _ => [(7, 0, 0x1e), (15, 12, 0xf)]
  | .ldFVx _ => [(7, 0, 0x29), (15, 12, 0xf)]
  | .ldBVx _ => [(7, 0, 0x33), (15, 12, 0xf)]
  | .ldIVx _ => [(7, 0, 0x55), (15, 12, 0xf)]
  | .ldVxI _ => [(7, 0, 0x65), (15, 12, 0xf)]

/-- The instruction's word holds each fixed field of its row (R46). -/
def Statement (i : Instr) : Prop :=
  ∀ f ∈ fixedFields i, (encode i).toNat / 2 ^ f.2.1 % 2 ^ (f.1 - f.2.1 + 1) = f.2.2

theorem fixed_nnn {op : Nat} (h : op < 16) (nnn : Addr12) : (wordNnn op nnn).toNat / 2 ^ 12 % 2 ^ 4 = op := by
  rw [wordNnn_toNat h]
  omega

theorem fixed_xkk {op : Nat} (h : op < 16) (x : Reg) (kk : Byte) : (wordXkk op x kk).toNat / 2 ^ 12 % 2 ^ 4 = op := by
  rw [wordXkk_toNat h]
  omega

theorem fixed_sub_xkk {op k : Nat} {kk : Byte} (h : op < 16) (x : Reg) (hk : kk.toNat = k) :
    (wordXkk op x kk).toNat / 2 ^ 0 % 2 ^ 8 = k := by
  rw [wordXkk_toNat h]
  omega

theorem fixed_xyn {op n : Nat} (h : op < 16) (x y : Reg) (hn : n < 16) :
    (wordXyn op x y n).toNat / 2 ^ 12 % 2 ^ 4 = op := by
  rw [wordXyn_toNat h x y hn]
  omega

theorem fixed_sub_xyn {op n : Nat} (h : op < 16) (x y : Reg) (hn : n < 16) :
    (wordXyn op x y n).toNat / 2 ^ 0 % 2 ^ 4 = n := by
  rw [wordXyn_toNat h x y hn]
  omega

theorem sys (nnn : Addr12) : Statement (.sys nnn) := by
  simpa [Statement, fixedFields, encode] using fixed_nnn (by decide) nnn

theorem cls : Statement .cls := by
  simp [Statement, fixedFields, encode]

theorem ret : Statement .ret := by
  simp [Statement, fixedFields, encode]

theorem jp (nnn : Addr12) : Statement (.jp nnn) := by
  simpa [Statement, fixedFields, encode] using fixed_nnn (by decide) nnn

theorem call (nnn : Addr12) : Statement (.call nnn) := by
  simpa [Statement, fixedFields, encode] using fixed_nnn (by decide) nnn

theorem seVxByte (x : Reg) (kk : Byte) : Statement (.seVxByte x kk) := by
  simpa [Statement, fixedFields, encode] using fixed_xkk (by decide) x kk

theorem sneVxByte (x : Reg) (kk : Byte) : Statement (.sneVxByte x kk) := by
  simpa [Statement, fixedFields, encode] using fixed_xkk (by decide) x kk

theorem seVxVy (x : Reg) (y : Reg) : Statement (.seVxVy x y) := by
  simpa [Statement, fixedFields, encode] using
    And.intro (fixed_sub_xyn (by decide) x y (by decide)) (fixed_xyn (by decide) x y (by decide))

theorem ldVxByte (x : Reg) (kk : Byte) : Statement (.ldVxByte x kk) := by
  simpa [Statement, fixedFields, encode] using fixed_xkk (by decide) x kk

theorem addVxByte (x : Reg) (kk : Byte) : Statement (.addVxByte x kk) := by
  simpa [Statement, fixedFields, encode] using fixed_xkk (by decide) x kk

theorem ldVxVy (x : Reg) (y : Reg) : Statement (.ldVxVy x y) := by
  simpa [Statement, fixedFields, encode] using
    And.intro (fixed_sub_xyn (by decide) x y (by decide)) (fixed_xyn (by decide) x y (by decide))

theorem orVxVy (x : Reg) (y : Reg) : Statement (.orVxVy x y) := by
  simpa [Statement, fixedFields, encode] using
    And.intro (fixed_sub_xyn (by decide) x y (by decide)) (fixed_xyn (by decide) x y (by decide))

theorem andVxVy (x : Reg) (y : Reg) : Statement (.andVxVy x y) := by
  simpa [Statement, fixedFields, encode] using
    And.intro (fixed_sub_xyn (by decide) x y (by decide)) (fixed_xyn (by decide) x y (by decide))

theorem xorVxVy (x : Reg) (y : Reg) : Statement (.xorVxVy x y) := by
  simpa [Statement, fixedFields, encode] using
    And.intro (fixed_sub_xyn (by decide) x y (by decide)) (fixed_xyn (by decide) x y (by decide))

theorem addVxVy (x : Reg) (y : Reg) : Statement (.addVxVy x y) := by
  simpa [Statement, fixedFields, encode] using
    And.intro (fixed_sub_xyn (by decide) x y (by decide)) (fixed_xyn (by decide) x y (by decide))

theorem subVxVy (x : Reg) (y : Reg) : Statement (.subVxVy x y) := by
  simpa [Statement, fixedFields, encode] using
    And.intro (fixed_sub_xyn (by decide) x y (by decide)) (fixed_xyn (by decide) x y (by decide))

theorem shrVx (x : Reg) (y : Reg) : Statement (.shrVx x y) := by
  simpa [Statement, fixedFields, encode] using
    And.intro (fixed_sub_xyn (by decide) x y (by decide)) (fixed_xyn (by decide) x y (by decide))

theorem subnVxVy (x : Reg) (y : Reg) : Statement (.subnVxVy x y) := by
  simpa [Statement, fixedFields, encode] using
    And.intro (fixed_sub_xyn (by decide) x y (by decide)) (fixed_xyn (by decide) x y (by decide))

theorem shlVx (x : Reg) (y : Reg) : Statement (.shlVx x y) := by
  simpa [Statement, fixedFields, encode] using
    And.intro (fixed_sub_xyn (by decide) x y (by decide)) (fixed_xyn (by decide) x y (by decide))

theorem sneVxVy (x : Reg) (y : Reg) : Statement (.sneVxVy x y) := by
  simpa [Statement, fixedFields, encode] using
    And.intro (fixed_sub_xyn (by decide) x y (by decide)) (fixed_xyn (by decide) x y (by decide))

theorem ldIAddr (nnn : Addr12) : Statement (.ldIAddr nnn) := by
  simpa [Statement, fixedFields, encode] using fixed_nnn (by decide) nnn

theorem jpV0Addr (nnn : Addr12) : Statement (.jpV0Addr nnn) := by
  simpa [Statement, fixedFields, encode] using fixed_nnn (by decide) nnn

theorem rnd (x : Reg) (kk : Byte) : Statement (.rnd x kk) := by
  simpa [Statement, fixedFields, encode] using fixed_xkk (by decide) x kk

theorem drw (x : Reg) (y : Reg) (n : Height) : Statement (.drw x y n) := by
  simpa [Statement, fixedFields, encode] using fixed_xyn (by decide) x y n.isLt

theorem skpVx (x : Reg) : Statement (.skpVx x) := by
  simpa [Statement, fixedFields, encode] using
    And.intro (fixed_sub_xkk (kk := 0x9e) (k := 0x9e) (by decide) x (by decide))
      (fixed_xkk (by decide) x _)

theorem sknpVx (x : Reg) : Statement (.sknpVx x) := by
  simpa [Statement, fixedFields, encode] using
    And.intro (fixed_sub_xkk (kk := 0xa1) (k := 0xa1) (by decide) x (by decide))
      (fixed_xkk (by decide) x _)

theorem ldVxDt (x : Reg) : Statement (.ldVxDt x) := by
  simpa [Statement, fixedFields, encode] using
    And.intro (fixed_sub_xkk (kk := 0x7) (k := 0x7) (by decide) x (by decide))
      (fixed_xkk (by decide) x _)

theorem ldVxK (x : Reg) : Statement (.ldVxK x) := by
  simpa [Statement, fixedFields, encode] using
    And.intro (fixed_sub_xkk (kk := 0xa) (k := 0xa) (by decide) x (by decide))
      (fixed_xkk (by decide) x _)

theorem ldDtVx (x : Reg) : Statement (.ldDtVx x) := by
  simpa [Statement, fixedFields, encode] using
    And.intro (fixed_sub_xkk (kk := 0x15) (k := 0x15) (by decide) x (by decide))
      (fixed_xkk (by decide) x _)

theorem ldStVx (x : Reg) : Statement (.ldStVx x) := by
  simpa [Statement, fixedFields, encode] using
    And.intro (fixed_sub_xkk (kk := 0x18) (k := 0x18) (by decide) x (by decide))
      (fixed_xkk (by decide) x _)

theorem addIVx (x : Reg) : Statement (.addIVx x) := by
  simpa [Statement, fixedFields, encode] using
    And.intro (fixed_sub_xkk (kk := 0x1e) (k := 0x1e) (by decide) x (by decide))
      (fixed_xkk (by decide) x _)

theorem ldFVx (x : Reg) : Statement (.ldFVx x) := by
  simpa [Statement, fixedFields, encode] using
    And.intro (fixed_sub_xkk (kk := 0x29) (k := 0x29) (by decide) x (by decide))
      (fixed_xkk (by decide) x _)

theorem ldBVx (x : Reg) : Statement (.ldBVx x) := by
  simpa [Statement, fixedFields, encode] using
    And.intro (fixed_sub_xkk (kk := 0x33) (k := 0x33) (by decide) x (by decide))
      (fixed_xkk (by decide) x _)

theorem ldIVx (x : Reg) : Statement (.ldIVx x) := by
  simpa [Statement, fixedFields, encode] using
    And.intro (fixed_sub_xkk (kk := 0x55) (k := 0x55) (by decide) x (by decide))
      (fixed_xkk (by decide) x _)

theorem ldVxI (x : Reg) : Statement (.ldVxI x) := by
  simpa [Statement, fixedFields, encode] using
    And.intro (fixed_sub_xkk (kk := 0x65) (k := 0x65) (by decide) x (by decide))
      (fixed_xkk (by decide) x _)

end Sys2Proof.Laws.EncodingBits
end

