-- ==== Sys2Proof/Tests/Slice0.lean ====
section
/-! SUPPORT. Tests of single steps from the vectors of 95_test_vectors.md (named after them), and for every obligation
with hypotheses a witness that meets them, at the boundaries of each clause. -/

namespace Sys2Proof.Tests

open Sys2Proof.Machine

/-! ## Helpers -/

/-- The vectors' start state with the changes of `f` and the word `w` at `PC`. -/
def running (w : Nat) (f : State → State) : State := (f State.reset).withFetchWord 16 w

/-- One step answers a next state with the property `p`. -/
def afterStep (s : State) (p : State → Bool) : Bool :=
  match step s with
  | .next t => p t
  | _ => false

/-- The execute phase answers a next state with the property `p`. -/
def afterExec (i : Instr) (s : State) (p : State → Bool) : Bool :=
  match exec i s with
  | .next t => p t
  | _ => false

theorem exists_of_afterExec {i : Instr} {s : State} {p : State → Bool} (h : afterExec i s p = true) :
    ∃ t, exec i s = .next t ∧ p t = true := by
  unfold afterExec at h
  split at h
  · exact ⟨_, ‹_›, h⟩
  · cases h

theorem exists_of_afterStep {s : State} {p : State → Bool} (h : afterStep s p = true) :
    ∃ t, step s = .next t ∧ p t = true := by
  unfold afterStep at h
  split at h
  · exact ⟨_, ‹_›, h⟩
  · cases h

/-- `STACK[k] <- w` and `SP <- k`. -/
def withFrame (k : Fin 16) (w : Word) (s : State) : State :=
  { s with sp := BitVec.ofNat 8 k, stack := s.stack.set k w }

/-- The byte `b` at `a`. -/
def withByte (a : Nat) (b : Byte) (s : State) : State := s.setMem (s.mem.write a b)

/-- The pixel at `(x, y)` on. -/
def withPixel (x : Fin 64) (y : Fin 32) (s : State) : State := s.setDisp (s.disp.setPixel x y true)

/-- Exactly the listed pixels are on. -/
def pixelsOn (s : State) (on : List (Fin 64 × Fin 32)) : Bool :=
  (List.finRange 64).all fun x => (List.finRange 32).all fun y => s.disp.pixel x y == on.contains (x, y)

/-! ## Well-formedness: the one check, each way it can fail -/

theorem test_wellFormed_refuses_sys_cls : (Instr.sys 0x0E0).wellFormed = false := by decide
theorem test_wellFormed_refuses_sys_ret : (Instr.sys 0x0EE).wellFormed = false := by decide
theorem test_wellFormed_accepts_sys : (Instr.sys 0x0E1).wellFormed = true := by decide

/-! ## Decoding: every constructor, from a word written out from its pattern (30_encoding.md R46) -/

theorem test_decode_control :
    decode 0x0123 = .ok (.sys 0x123) ∧ decode 0x00EE = .ok .ret ∧ decode 0x1ABC = .ok (.jp 0xABC) ∧
    decode 0x2300 = .ok (.call 0x300) ∧ decode 0xBFED = .ok (.jpV0Addr 0xFED) := by
  refine ⟨?_, ?_, ?_, ?_, ?_⟩ <;> rfl

theorem test_decode_skip :
    decode 0x3244 = .ok (.seVxByte 2 0x44) ∧ decode 0x4F81 = .ok (.sneVxByte 15 0x81) ∧
    decode 0x5120 = .ok (.seVxVy 1 2) ∧ decode 0x9BA0 = .ok (.sneVxVy 11 10) := by
  refine ⟨?_, ?_, ?_, ?_⟩ <;> rfl

theorem test_decode_moves :
    decode 0x6A2C = .ok (.ldVxByte 10 0x2C) ∧ decode 0x7305 = .ok (.addVxByte 3 0x05) ∧
    decode 0x8010 = .ok (.ldVxVy 0 1) ∧ decode 0x8011 = .ok (.orVxVy 0 1) ∧ decode 0x8BC2 = .ok (.andVxVy 11 12) ∧
    decode 0x8333 = .ok (.xorVxVy 3 3) := by
  refine ⟨?_, ?_, ?_, ?_, ?_, ?_⟩ <;> rfl

theorem test_decode_arithmetic :
    decode 0x8124 = .ok (.addVxVy 1 2) ∧ decode 0x8F15 = .ok (.subVxVy 15 1) ∧ decode 0x8406 = .ok (.shrVx 4 0) ∧
    decode 0x8127 = .ok (.subnVxVy 1 2) ∧ decode 0x84EE = .ok (.shlVx 4 14) := by
  refine ⟨?_, ?_, ?_, ?_, ?_⟩ <;> rfl

theorem test_decode_display_random :
    decode 0x00E0 = .ok .cls ∧ decode 0xD125 = .ok (.drw 1 2 5) ∧ decode 0xC30F = .ok (.rnd 3 0x0F) := by
  refine ⟨?_, ?_, ?_⟩ <;> rfl

theorem test_decode_index_memory :
    decode 0xA050 = .ok (.ldIAddr 0x050) ∧ decode 0xF21E = .ok (.addIVx 2) ∧ decode 0xF329 = .ok (.ldFVx 3) ∧
    decode 0xFA33 = .ok (.ldBVx 10) ∧ decode 0xF155 = .ok (.ldIVx 1) ∧ decode 0xFF65 = .ok (.ldVxI 15) := by
  refine ⟨?_, ?_, ?_, ?_, ?_, ?_⟩ <;> rfl

theorem test_decode_timers_keypad :
    decode 0xF507 = .ok (.ldVxDt 5) ∧ decode 0xF30A = .ok (.ldVxK 3) ∧ decode 0xF615 = .ok (.ldDtVx 6) ∧
    decode 0xF718 = .ok (.ldStVx 7) ∧ decode 0xE19E = .ok (.skpVx 1) ∧ decode 0xE2A1 = .ok (.sknpVx 2) := by
  refine ⟨?_, ?_, ?_, ?_, ?_, ?_⟩ <;> rfl

/-- One illegal word of each family of R47's table. -/
theorem test_decode_illegal :
    decode 0x5121 = .error (.invalidOpcode 0x5121) ∧ decode 0x8008 = .error (.invalidOpcode 0x8008) ∧
    decode 0x800F = .error (.invalidOpcode 0x800F) ∧ decode 0x912F = .error (.invalidOpcode 0x912F) ∧
    decode 0xE000 = .error (.invalidOpcode 0xE000) ∧ decode 0xF000 = .error (.invalidOpcode 0xF000) := by
  refine ⟨?_, ?_, ?_, ?_, ?_, ?_⟩ <;> rfl

/-- The high byte is the one at the lower address (R32). -/
theorem test_decodeBytes_bigEndian : decodeBytes [0x6A, 0x2C, 0x00] = .ok (.ldVxByte 10 0x2C, [0x00]) := rfl
theorem test_decodeBytes_truncated : decodeBytes [0x6A] = .error .truncated := rfl
theorem test_encode_words :
    encode (.drw 1 2 5) = 0xD125 ∧ encode (.shlVx 4 0) = 0x840E ∧ encode (.ldVxI 15) = 0xFF65 := by decide
theorem test_decodeTableWord : decodeTableWord 16 0xF155 = some (.ldIVx 1) ∧ decodeTableWord 16 0x5121 = none := by
  refine ⟨?_, ?_⟩ <;> rfl

/-! ## ALU (V-ALU) -/

theorem test_alu21_ldVxByte : afterStep (running 0x6A2C id) (fun t => t.reg 10 == 0x2C && t.pc == 0x202) = true := by
  decide
theorem test_alu20_addVxByte :
    afterStep (running 0x70FF (·.setReg 0 2 |>.setReg 15 9)) (fun t => t.reg 0 == 1 && t.reg 15 == 9) = true := by decide
theorem test_alu24_addVxByte_vf : afterStep (running 0x7F01 (·.setReg 15 0xFF)) (fun t => t.reg 15 == 0) = true := by
  decide
theorem test_alu22_ldVxVy : afterStep (running 0x8010 (·.setReg 1 7)) (fun t => t.reg 0 == 7) = true := by decide
theorem test_alu17_orVxVy :
    afterStep (running 0x8011 (·.setReg 0 0xF0 |>.setReg 1 0x0C |>.setReg 15 0x55))
      (fun t => t.reg 0 == 0xFC && t.reg 15 == 0x55) = true := by decide
theorem test_alu18_andVxVy :
    afterStep (running 0x8012 (·.setReg 0 0xF0 |>.setReg 1 0x3C |>.setReg 15 0x55))
      (fun t => t.reg 0 == 0x30 && t.reg 15 == 0x55) = true := by decide
theorem test_alu19_xorVxVy : afterStep (running 0x8333 (·.setReg 3 0x5A)) (fun t => t.reg 3 == 0) = true := by decide
theorem test_alu3_addVxVy_double :
    afterStep (running 0x8114 (·.setReg 1 0x80)) (fun t => t.reg 1 == 0 && t.reg 15 == 1) = true := by decide
theorem test_alu4_addVxVy_vf :
    afterStep (running 0x8F14 (·.setReg 15 0xF0 |>.setReg 1 0x20)) (fun t => t.reg 15 == 1) = true := by decide
theorem test_alu6_subVxVy_equal :
    afterStep (running 0x8125 (·.setReg 1 5 |>.setReg 2 5)) (fun t => t.reg 1 == 0 && t.reg 15 == 1) = true := by decide
theorem test_alu7_subVxVy_borrow :
    afterStep (running 0x8125 (·.setReg 2 1)) (fun t => t.reg 1 == 0xFF && t.reg 15 == 0) = true := by decide
theorem test_alu9_subnVxVy :
    afterStep (running 0x8127 (·.setReg 1 5 |>.setReg 2 7)) (fun t => t.reg 1 == 2 && t.reg 15 == 1) = true := by decide
theorem test_alu10_subnVxVy_borrow :
    afterStep (running 0x8127 (·.setReg 1 1)) (fun t => t.reg 1 == 0xFF && t.reg 15 == 0) = true := by decide
theorem test_alu11_shrVx :
    afterStep (running 0x8406 (·.setReg 4 5 |>.setReg 0 0xAA))
      (fun t => t.reg 4 == 2 && t.reg 15 == 1 && t.reg 0 == 0xAA) = true := by decide
theorem test_alu13_shrVx_vf : afterStep (running 0x8F06 (·.setReg 15 3)) (fun t => t.reg 15 == 1) = true := by decide
theorem test_alu15_shlVx :
    afterStep (running 0x840E (·.setReg 4 0xFF)) (fun t => t.reg 4 == 0xFE && t.reg 15 == 1) = true := by decide
theorem test_alu16_shlVx_vf : afterStep (running 0x8F0E (·.setReg 15 0x40)) (fun t => t.reg 15 == 0) = true := by decide

/-! ## Skips (V-SKIP) -/

theorem test_skip1_seVxByte : afterStep (running 0x3244 (·.setReg 2 0x44)) (fun t => t.pc == 0x204) = true := by decide
theorem test_skip11_seVxByte_top : afterStep (running 0x3000 (·.setPc 0xFFC)) (fun t => t.pc == 0x1000) = true := by decide
theorem test_skip3_sneVxByte : afterStep (running 0x4244 (·.setReg 2 0x45)) (fun t => t.pc == 0x204) = true := by decide
theorem test_skip4_sneVxByte_no : afterStep (running 0x4244 (·.setReg 2 0x44)) (fun t => t.pc == 0x202) = true := by decide
theorem test_skip5_seVxVy : afterStep (running 0x5110 (·.setReg 1 3)) (fun t => t.pc == 0x204) = true := by decide
theorem test_skip7_seVxVy_no :
    afterStep (running 0x5120 (·.setReg 1 1 |>.setReg 2 2)) (fun t => t.pc == 0x202) = true := by decide
theorem test_skip6_sneVxVy_no : afterStep (running 0x9110 (·.setReg 1 3)) (fun t => t.pc == 0x202) = true := by decide
theorem test_skip8_sneVxVy :
    afterStep (running 0x9120 (·.setReg 1 1 |>.setReg 2 2)) (fun t => t.pc == 0x204) = true := by decide

/-! ## Display (V-DRW) -/

theorem test_drw9_cls :
    afterStep (running 0x00E0 (fun s => withPixel 5 5 (s.setReg 15 7)))
      (fun t => pixelsOn t [] && t.reg 15 == 7 && t.pc == 0x202) = true := by decide

/-- V-DRW-4: both coordinates wrap before the sprite starts. -/
theorem test_drw4_drw_wraps :
    afterStep (running 0xD011 (fun s => withByte 0x300 0x81 (s.setReg 0 70 |>.setReg 1 33 |>.setIndex 0x300)))
      (fun t => pixelsOn t [(6, 1), (13, 1)] && t.reg 15 == 0) = true := by decide

/-- V-DRW-6: a pixel that was on goes off and is the collision. -/
theorem test_drw6_drw_collides :
    afterStep (running 0xD011 (fun s => withPixel 2 0 (withByte 0x300 0xF0 (s.setIndex 0x300))))
      (fun t => pixelsOn t [(0, 0), (1, 0), (3, 0)] && t.reg 15 == 1) = true := by decide

/-! ## Random source (V-RND) -/

theorem test_rnd1_rnd :
    afterStep (running 0xC0FF id) (fun t => t.reg 0 == 0x7E && t.rng == 1103527590) = true := by decide

/-- V-RND-6's first step: a seed above 2^31. -/
theorem test_rnd6_rnd_large_seed :
    afterStep (running 0xC0FF (·.setRng 0xFFFFFFFF)) (fun t => t.reg 0 == 0xE1 && t.rng == 1043980748) = true := by decide

/-! ## Control transfer (V-CTL) -/

theorem test_ctl9_sys : afterStep (running 0x0123 id) (fun t => t.pc == 0x202) = true := by decide
theorem test_ctl2_jp_odd : afterStep (running 0x1235 id) (fun t => t.pc == 0x235) = true := by decide
theorem test_ctl3_call :
    afterStep (running 0x2300 id) (fun t => t.pc == 0x300 && t.sp == 1 && t.stack[1] == 0x202) = true := by decide
theorem test_ctl4_call_overflow :
    afterStep (running 0x2300 (withFrame 15 0x202))
      (fun t => t.halt == some (.stackOverflow 0x200) && t.pc == 0x202 && t.sp == 15) = true := by decide
theorem test_ctl5_ret :
    afterStep (running 0x00EE (withFrame 1 0x202)) (fun t => t.pc == 0x202 && t.sp == 0 && t.stack[1] == 0x202) = true := by
  decide
theorem test_ctl6_ret_underflow :
    afterStep (running 0x00EE id) (fun t => t.halt == some (.stackUnderflow 0x200) && t.pc == 0x202) = true := by decide
theorem test_ctl8_jpV0Addr :
    afterStep (running 0xBFFF (·.setReg 0 0xFF)) (fun t => t.pc == 0x10FE && t.halt == none) = true := by decide

/-! ## Index register and memory (V-MEM) -/

theorem test_mem1_ldIAddr : afterStep (running 0xA050 id) (fun t => t.i == 0x050) = true := by decide
theorem test_mem2_addIVx :
    afterStep (running 0xF21E (·.setIndex 0x0FFF |>.setReg 2 1)) (fun t => t.i == 0x1000 && t.halt == none) = true := by
  decide
theorem test_mem3_addIVx_fault :
    afterStep (running 0xF21E (·.setIndex 0xFFFF |>.setReg 2 1))
      (fun t => t.halt == some (.outOfBoundsAccess 0x10000 0x200) && t.i == 0xFFFF && t.pc == 0x202) = true := by decide
theorem test_mem7_ldFVx : afterStep (running 0xFF29 (·.setReg 15 15)) (fun t => t.i == 0x04B) = true := by decide
theorem test_mem6_ldFVx_fault :
    afterStep (running 0xF329 (·.setReg 3 0x10 |>.setIndex 7))
      (fun t => t.halt == some (.invalidDigit 0x10 0x200) && t.i == 7) = true := by decide
theorem test_mem8_ldBVx :
    afterStep (running 0xF033 (·.setIndex 0x300 |>.setReg 0 0xFF))
      (fun t => t.mem.read 0x300 == 2 && t.mem.read 0x301 == 5 && t.mem.read 0x302 == 5) = true := by decide
theorem test_mem10_ldBVx_fault :
    afterStep (running 0xF033 (·.setIndex 0x0FFE |>.setReg 0 0x7B))
      (fun t => t.halt == some (.outOfBoundsAccess 0x1000 0x200) && t.mem.read 0xFFE == 0 && t.mem.read 0xFFF == 0) = true := by
  decide
theorem test_mem14_ldIVx_top :
    afterStep (running 0xFF55 (·.setIndex 0x0FF0 |>.setReg 0 3 |>.setReg 15 9))
      (fun t => t.mem.read 0xFF0 == 3 && t.mem.read 0xFFF == 9 && t.i == 0xFF0 && t.halt == none) = true := by decide
theorem test_mem15_ldIVx_fault :
    afterStep (running 0xFF55 (·.setIndex 0x0FF1 |>.setReg 0 3))
      (fun t => t.halt == some (.outOfBoundsAccess 0x1000 0x200) && t.mem.read 0xFF1 == 0) = true := by decide
theorem test_mem16_ldVxI :
    afterStep (running 0xF165 (fun s => withByte 0x301 2 (withByte 0x300 1 (s.setIndex 0x300 |>.setReg 2 8))))
      (fun t => t.reg 0 == 1 && t.reg 1 == 2 && t.reg 2 == 8 && t.i == 0x300) = true := by decide
theorem test_mem17_ldVxI_fault :
    afterStep (running 0xF065 (·.setIndex 0x1000 |>.setReg 0 8))
      (fun t => t.halt == some (.outOfBoundsAccess 0x1000 0x200) && t.reg 0 == 8) = true := by decide

/-! ## Timers and keypad (V-TMR, V-KEY) -/

theorem test_tmr1_ldVxDt : afterStep (running 0xF507 (·.setDelay 0x3C)) (fun t => t.reg 5 == 0x3C) = true := by decide
theorem test_tmr2_ldDtVx : afterStep (running 0xF515 (·.setReg 5 0x3C)) (fun t => t.dt == 0x3C) = true := by decide
theorem test_tmr3_ldStVx : afterStep (running 0xF518 (·.setReg 5 5)) (fun t => t.st == 5) = true := by decide
theorem test_tmr4_tick : (tick (State.reset.setDelay 1)).dt = 0 ∧ (tick (State.reset.setDelay 1)).st = 0 := by decide
theorem test_tmr6_tick_halted :
    (tick ((State.reset.setDelay 5).takeFault (.stackOverflow 0x200))).dt = 4 := by decide
theorem test_key1_skpVx :
    afterStep (running 0xE19E (·.setReg 1 10 |>.setKeys 0x0400)) (fun t => t.pc == 0x204) = true := by decide
theorem test_key5_skpVx_fault :
    afterStep (running 0xE19E (·.setReg 1 16)) (fun t => t.halt == some (.invalidKey 16 0x200) && t.pc == 0x202) = true := by
  decide
theorem test_key3_sknpVx : afterStep (running 0xE1A1 (·.setReg 1 10)) (fun t => t.pc == 0x204) = true := by decide
theorem test_key4_sknpVx_no :
    afterStep (running 0xE1A1 (·.setReg 1 10 |>.setKeys 0x0400)) (fun t => t.pc == 0x202) = true := by decide
theorem test_key6_ldVxK_waits :
    afterStep (running 0xF30A (·.setPc 0x210)) (fun t => t == running 0xF30A (·.setPc 0x210)) = true := by decide
theorem test_key8_ldVxK :
    afterStep (running 0xF30A (·.setKeys 0x8000)) (fun t => t.reg 3 == 15 && t.pc == 0x202) = true := by decide

/-! ## Fetch, faults and the host interface (V-FETCH) -/

theorem test_fetch1_top : afterStep (State.reset.setPc 0xFFE) (fun t => t.pc == 0x1000 && t.halt == none) = true := by decide
theorem test_fetch2_boundary :
    afterStep (State.reset.setPc 0xFFF)
      (fun t => t.halt == some (.outOfBoundsAccess 0x1000 0xFFF) && t.pc == 0xFFF) = true := by decide
theorem test_fetch3_outside :
    afterStep (State.reset.setPc 0x1000) (fun t => t.halt == some (.outOfBoundsAccess 0x1000 0x1000)) = true := by decide
theorem test_fetch4_illegal :
    afterStep (running 0x8008 id) (fun t => t.halt == some (.invalidOpcode 0x8008 0x200) && t.pc == 0x200) = true := by decide
theorem test_fetch7_halted :
    step (State.reset.takeFault (.invalidOpcode 0x8008 0x200)) = .fault (.invalidOpcode 0x8008 0x200) := rfl
theorem test_fetch8_empty_program : afterStep State.reset (fun t => t.pc == 0x202) = true := by decide
theorem test_construct_empty : construct Config.defaultFont [] 1 = some State.reset := by decide
theorem test_construct_program :
    ((construct Config.defaultFont [0x12, 0x00] 7).map fun s =>
      (s.mem.read 0x200, s.mem.read 0x201, s.mem.read 0x4B, s.rng)) = some (0x12, 0x00, 0xF0, 7) := by decide
theorem test_construct_refuses_font : construct [0xF0, 0x90] [] 1 = none := by decide
theorem test_hostStep_awaits : (hostStep 0 (running 0xF00A id)).1 = .awaitingKey 0x200 (.ldVxK 0) := by decide
theorem test_hostStep_executes : (hostStep 0x20 (running 0xF00A id)).1 = .executed 0x200 (.ldVxK 0) := by decide
theorem test_hostStep_faults : (hostStep 0 (running 0x00EE id)).1 = .fault (.stackUnderflow 0x200) := by decide
theorem test_getPixel :
    getPixel (withPixel 63 31 State.reset) 63 31 = some true ∧ getPixel State.reset 64 0 = none ∧
      getPixel State.reset 0 32 = none := by decide
theorem test_core_reset : Sys2Proof.core.reset = State.reset := rfl

/-! ## Witnesses: states and operands that meet the hypotheses of each obligation, clause by clause -/

theorem witness_ConstructionLoadsFontProgramAndSeed :
    fontAdmissible Config.defaultFont = true ∧ (List.replicate 3584 (0x12 : Byte)).length ≤ 3584 ∧
      3584 < (List.replicate 3585 (0x12 : Byte)).length := by
  simp only [List.length_replicate]
  decide

theorem witness_StepRunsTheDecodedInstruction : Executes (running 0xA050 (·.setPc 0xFFE)) (.ldIAddr 0x050) :=
  ⟨rfl, by decide, rfl⟩

theorem witness_FetchChecksBothAddressesAndReadsBigEndian :
    State.reset.halt = none ∧ 4096 ≤ (State.reset.setPc 4096).pc.toNat ∧ (State.reset.setPc 4095).pc.toNat = 4095 ∧
      (State.reset.setPc 4094).pc.toNat < 4095 := by decide

theorem witness_IllegalWordFaultsWithoutAdvancing :
    (running 0x8008 id).halt = none ∧ fetch (running 0x8008 id) = .ok 0x8008 ∧
      illegalWord (0x8008 : Word).toNat = true := ⟨rfl, rfl, rfl⟩

theorem witness_SysStepOnlyAdvancesThePc : Executes State.reset (.sys 0) := ⟨rfl, by decide, rfl⟩

theorem witness_FamilyZeroWordsDecodeToSys :
    (0x0FFF : Word).toNat < 4096 ∧ (0x0FFF : Word) ≠ 0x00E0 ∧ (0x0FFF : Word) ≠ 0x00EE := by decide

theorem witness_DecodeOfEncodeIsTheInstruction :
    (Instr.sys 0x0E1).wellFormed = true ∧ (Instr.drw 15 0 15).wellFormed = true := by decide

theorem witness_EncodeOfDecodeIsTheWord : decode 0x00EE = .ok .ret ∧ decode 0x00EF = .ok (.sys 0x0EF) := ⟨rfl, rfl⟩

theorem witness_AddWritesSumThenCarry : (0 : Reg) ≠ 15 := by decide

/-- Each of the six skips, the first at the last fetchable address, the key tests at the last key. -/
theorem witness_SkipStepMovesThePcByFourOrTwo :
    Executes (running 0x3000 (·.setPc 0xFFE)) (.seVxByte 0 0) ∧ Executes (running 0x4001 id) (.sneVxByte 0 1) ∧
      Executes (running 0x5120 id) (.seVxVy 1 2) ∧ Executes (running 0x9120 id) (.sneVxVy 1 2) ∧
      Executes (running 0xE19E (·.setReg 1 15)) (.skpVx 1) ∧ Executes (running 0xE1A1 (·.setReg 1 15)) (.sknpVx 1) ∧
      ((running 0xE19E (·.setReg 1 15)).reg 1).toNat < 16 ∧ ((running 0xE1A1 (·.setReg 1 15)).reg 1).toNat < 16 :=
  ⟨⟨rfl, by decide, rfl⟩, ⟨rfl, by decide, rfl⟩, ⟨rfl, by decide, rfl⟩, ⟨rfl, by decide, rfl⟩,
    ⟨rfl, by decide, rfl⟩, ⟨rfl, by decide, rfl⟩, by decide, by decide⟩

/-- The last byte of a sprite at the last byte of memory, and a height of 0 far outside it. -/
theorem witness_DrawTogglesExactlyTheCoveredPixels :
    ((15 : Height) = 0 ∨ (State.reset.setIndex 0xFF1).i.toNat + (15 : Height).val ≤ 4096) ∧
      ((0 : Height) = 0 ∨ (State.reset.setIndex 0x2000).i.toNat + (0 : Height).val ≤ 4096) := by decide

/-- `V0 = 63`, `V1 = 31` and that pixel on. -/
def cornerState : State := withPixel 63 31 (State.reset.setReg 0 63 |>.setReg 1 31)

/-- Glyph 0 drawn by `DRW V0, V1, 5` covers that pixel, which is on, and the one wrapped to column 0. -/
theorem witness_DrawTogglesExactlyTheCoveredPixels_collision :
    SpriteCovers cornerState (cornerState.reg 0) (cornerState.reg 1) 5 63 31 ∧
      SpriteCovers cornerState (cornerState.reg 0) (cornerState.reg 1) 5 0 31 ∧
      cornerState.disp.pixel 63 31 = true :=
  ⟨⟨0, 0, by decide, by decide, rfl, rfl, rfl⟩, ⟨1, 0, by decide, by decide, rfl, rfl, rfl⟩, rfl⟩

theorem witness_DrawTogglesExactlyTheCoveredPixels_no_collision :
    ¬ ∃ px py, SpriteCovers State.reset (State.reset.reg 0) (State.reset.reg 1) 5 px py ∧ State.reset.disp.pixel px py = true := by
  rintro ⟨px, py, -, h⟩
  rw [show State.reset.disp = Display.blank from rfl, Display.pixel_blank] at h
  cases h

theorem witness_DrawingTwiceRestoresTheDisplay :
    ∃ t u, (0 : Reg) ≠ 15 ∧ (1 : Reg) ≠ 15 ∧ State.reset.i.toNat + (5 : Height).val ≤ 4096 ∧
      exec (.drw 0 1 5) State.reset = .next t ∧ exec (.drw 0 1 5) t = .next u := by
  obtain ⟨t, h, hp⟩ := exists_of_afterExec (i := .drw 0 1 5) (s := State.reset)
    (p := fun t => afterExec (.drw 0 1 5) t fun _ => true) (by decide)
  obtain ⟨u, hu, -⟩ := exists_of_afterExec hp
  exact ⟨t, u, by decide, by decide, by decide, h, hu⟩

theorem witness_RandomSeesTheSourceModuloItsModulus :
    (0x80000001 : BitVec 32).toNat % 2 ^ 31 = State.reset.rng.toNat % 2 ^ 31 ∧ 0x80000001 ≠ State.reset.rng := by decide

/-- The last call that fits and the first that does not. -/
theorem witness_CallPushesTheAdvancedPcOrOverflows :
    (withFrame 14 0x202 State.reset).sp.toNat + 1 < 16 ∧ 16 ≤ (withFrame 15 0x202 State.reset).sp.toNat + 1 := by decide

theorem witness_ReturnPopsOrUnderflows :
    (withFrame 15 0x202 State.reset).sp.toNat = (15 : Fin 16).val ∧
      (withFrame 1 0x202 State.reset).sp.toNat = (1 : Fin 16).val ∧ State.reset.sp = 0 := by decide

theorem witness_ReturnAfterCallGoesToItsSuccessor :
    (withFrame 14 0x202 State.reset).sp.toNat < 15 ∧
      ∃ t u : State, exec (.call 0x300) (withFrame 14 0x202 State.reset) = .next t ∧ u.sp = t.sp ∧ u.stack = t.stack := by
  obtain ⟨t, h, -⟩ := exists_of_afterExec (i := .call 0x300) (s := withFrame 14 0x202 State.reset)
    (p := fun t => t.sp == 15) (by decide)
  exact ⟨by decide, t, t, h, rfl, rfl⟩

theorem witness_IndexLoadAndAddAreExact :
    (State.reset.setIndex 0xFF00 |>.setReg 0 0xFF).i.toNat +
        ((State.reset.setIndex 0xFF00 |>.setReg 0 0xFF).reg 0).toNat ≤ 0xFFFF ∧
      0xFFFF < (State.reset.setIndex 0xFF01 |>.setReg 0 0xFF).i.toNat +
        ((State.reset.setIndex 0xFF01 |>.setReg 0 0xFF).reg 0).toNat := by decide

theorem witness_FontLookupGivesTheGlyphAddressOrFaults :
    ((State.reset.setReg 0 15).reg 0).toNat ≤ 15 ∧ 15 < ((State.reset.setReg 0 16).reg 0).toNat := by decide

theorem witness_BcdStoresThreeDigitsOrFaults :
    State.reset.mem.wf = true ∧ (State.reset.setIndex 0xFFD).indexAddr + 2 < 4096 ∧
      4096 ≤ (State.reset.setIndex 0xFFE).indexAddr + 2 := by decide

/-- For the bulk store, the bulk load and the load after a store. -/
theorem witness_BulkTransfers :
    State.reset.mem.wf = true ∧ (State.reset.setIndex 0xFF0).indexAddr + (15 : Reg).val < 4096 := by decide

theorem witness_LoadAfterStoreRestoresTheRegisters :
    ∃ t u : State, exec (.ldIVx 15) (State.reset.setIndex 0xFF0 |>.setReg 15 9) = .next t ∧ u.mem = t.mem ∧ u.i = t.i := by
  obtain ⟨t, h, -⟩ := exists_of_afterExec (i := .ldIVx 15) (s := State.reset.setIndex 0xFF0 |>.setReg 15 9)
    (p := fun t => t.mem.read 0xFFF == 9) (by decide)
  exact ⟨t, t, h, rfl, rfl⟩

theorem witness_AccessOutsideMemoryFaultsBeforeAnyEffect :
    (1 : Height) ≠ 0 ∧ 4096 < (State.reset.setIndex 0x1000).indexAddr + (1 : Height).val ∧
      4096 ≤ (State.reset.setIndex 0xFF1).indexAddr + (15 : Reg).val := by decide

/-- `PC` at the last two bytes of memory stored, at the first two digits, and at the last two. -/
theorem witness_StoredWordIsTheNextOneFetched :
    ((15 : Reg).val = (14 : Reg).val + 1 ∧ (15 : Reg) ≤ 15 ∧
      (State.reset.setIndex 0xFF0 |>.setPc 0xFFE).indexAddr + (15 : Reg).val < 4096 ∧
      (State.reset.setIndex 0xFF0 |>.setPc 0xFFE).pc.toNat =
        (State.reset.setIndex 0xFF0 |>.setPc 0xFFE).indexAddr + (14 : Reg).val ∧
      ∃ t, exec (.ldIVx 15) (State.reset.setIndex 0xFF0 |>.setPc 0xFFE) = .next t) ∧
    ((State.reset.setIndex 0xFFD).indexAddr + 2 < 4096 ∧ (State.reset.setIndex 0xFFD |>.setPc 0xFFD).pc.toNat = 0xFFD ∧
      ∃ t, exec (.ldBVx 0) (State.reset.setIndex 0xFFD |>.setPc 0xFFD) = .next t) ∧
    ((State.reset.setIndex 0xFFD |>.setPc 0xFFE).pc.toNat = (State.reset.setIndex 0xFFD).indexAddr + 1 ∧
      ∃ t, exec (.ldBVx 0) (State.reset.setIndex 0xFFD |>.setPc 0xFFE) = .next t) := by
  obtain ⟨t, h, -⟩ := exists_of_afterExec (i := .ldIVx 15) (s := State.reset.setIndex 0xFF0 |>.setPc 0xFFE)
    (p := fun _ => true) (by decide)
  obtain ⟨u, hu, -⟩ := exists_of_afterExec (i := .ldBVx 0) (s := State.reset.setIndex 0xFFD |>.setPc 0xFFD)
    (p := fun _ => true) (by decide)
  obtain ⟨w, hw, -⟩ := exists_of_afterExec (i := .ldBVx 0) (s := State.reset.setIndex 0xFFD |>.setPc 0xFFE)
    (p := fun _ => true) (by decide)
  exact ⟨⟨by decide, by decide, by decide, by decide, t, h⟩, ⟨by decide, by decide, u, hu⟩, ⟨by decide, w, hw⟩⟩

theorem witness_KeyTestsSkipOnTheLevelOrFault :
    ((State.reset.setReg 0 15).reg 0).toNat < 16 ∧ 16 ≤ ((State.reset.setReg 0 16).reg 0).toNat := by decide

theorem witness_KeyWaitStoresADownKeyOrMovesBack :
    (State.reset.setKeys 0x8001).keys ≠ 0 ∧ State.reset.keys = 0 := by decide

/-- One faulting execution for each case of the table, and one that does not fault. -/
theorem witness_ExecutePhaseFaultsAreThoseOfTheTable :
    State.reset.halt = none ∧
    afterExec (.drw 0 0 1) (State.reset.setIndex 0x1000) (·.halt.isSome) = true ∧
    afterExec (.ldBVx 0) (State.reset.setIndex 0xFFE) (·.halt.isSome) = true ∧
    afterExec (.ldIVx 1) (State.reset.setIndex 0xFFF) (·.halt.isSome) = true ∧
    afterExec (.ldVxI 1) (State.reset.setIndex 0xFFF) (·.halt.isSome) = true ∧
    afterExec (.addIVx 0) (State.reset.setIndex 0xFFFF |>.setReg 0 1) (·.halt.isSome) = true ∧
    afterExec (.call 0) (withFrame 15 0 State.reset) (·.halt.isSome) = true ∧
    afterExec .ret State.reset (·.halt.isSome) = true ∧
    afterExec (.ldFVx 0) (State.reset.setReg 0 16) (·.halt.isSome) = true ∧
    afterExec (.skpVx 0) (State.reset.setReg 0 16) (·.halt.isSome) = true ∧
    afterExec (.sknpVx 0) (State.reset.setReg 0 16) (·.halt.isSome) = true ∧
    afterExec (.drw 0 0 1) (State.reset.setIndex 0xFFF) (·.halt.isNone) = true := by decide

/-- A fault of the execute phase and one of the decode. -/
theorem witness_FaultsArePrecise :
    (∃ t, step (running 0x00EE id) = .next t ∧ (t.halt == some (.stackUnderflow 0x200)) = true) ∧
    (∃ t, step (running 0x8008 id) = .next t ∧ (t.halt == some (.invalidOpcode 0x8008 0x200)) = true) ∧
    Executes (running 0x00EE id) .ret ∧ ¬ ∃ i, Executes (running 0x8008 id) i := by
  refine ⟨exists_of_afterStep (by decide), exists_of_afterStep (by decide), ⟨rfl, by decide, rfl⟩, ?_⟩
  rintro ⟨i, -, -, h⟩
  exact absurd ((decodeBytes_pair _ _ _).1 h) (by rw [show decode _ = .error (.invalidOpcode 0x8008) from rfl]; nofun)

theorem witness_HaltIsFinal :
    (State.reset.takeFault (.stackUnderflow 0x200)).halt = some (.stackUnderflow 0x200) := rfl

/-- The invariant at its bounds: `PC` 0x10FE, `SP` 15, a slot of 4096; and a step that answers a next state. -/
theorem witness_StepKeepsTheInvariant :
    (withFrame 15 0x1000 (State.reset.setPc 0x10FE)).Inv ∧
      ∃ t, step (withFrame 15 0x1000 (State.reset.setPc 0x10FE)) = .next t :=
  ⟨⟨rfl, by decide, by decide, by decide, fun _ h => by cases h⟩, _, rfl⟩

/-- The invariant in a halted state. -/
theorem witness_Inv_halted : ((running 0x00EE id).advance.takeFault (.stackUnderflow 0x200)).Inv :=
  ⟨by decide, by decide, by decide, by decide, fun f h => by cases h; exact .inr rfl⟩

/-- A host operation of each kind that changes the state, from a state at the invariant's bounds. -/
theorem witness_EveryHostOperationKeepsTheInvariant :
    (withFrame 15 0x1000 (State.reset.setPc 0x10FE)).Inv ∧
      (hostApply (.step 0x8000) (withFrame 15 0x1000 (State.reset.setPc 0x10FE))).2.halt ≠ none ∧
      (hostApply .tick (State.reset.setDelay 2)).2.dt = 1 :=
  ⟨⟨rfl, by decide, by decide, by decide, fun _ h => by cases h⟩, by decide, by decide⟩

theorem witness_EverySessionKeepsTheInvariant :
    (construct Config.defaultFont [0x12, 0x00] 7).isSome = true := by decide

theorem witness_OnlyClearAndDrawChangeTheDisplay :
    afterExec .cls (withPixel 5 5 State.reset) (fun t => t.disp.pixel 5 5 != true) = true ∧
      afterExec (.drw 0 0 5) State.reset (fun t => t.disp.pixel 0 0 != State.reset.disp.pixel 0 0) = true := by decide

theorem witness_OnlyTheTwoStoresChangeMemory :
    afterExec (.ldBVx 0) (State.reset.setIndex 0x300 |>.setReg 0 0xFF)
        (fun t => t.mem.read 0x302 != State.reset.mem.read 0x302) = true ∧
      afterExec (.ldIVx 0) (State.reset.setIndex 0xFFF |>.setReg 0 0xFF)
        (fun t => t.mem.read 0xFFF != State.reset.mem.read 0xFFF) = true := by decide

theorem witness_OnlyRandomReadsOrWritesTheSource :
    (∀ x kk, Instr.cls ≠ .rnd x kk) ∧ ∃ t, exec .cls State.reset = .next t := ⟨nofun, _, rfl⟩

theorem witness_OnlyCallAndReturnUseTheStack :
    afterExec (.call 0x300) (withFrame 14 0 State.reset) (fun t => t.sp != 14 && t.stack[15] != 0) = true ∧
      afterExec .ret (withFrame 1 0 State.reset) (fun t => t.sp != 1) = true ∧
      (Instr.cls ≠ .ret ∧ (∀ nnn, Instr.cls ≠ .call nnn) ∧ ∃ t, exec .cls State.reset = .next t) :=
  ⟨by decide, by decide, nofun, nofun, _, rfl⟩

theorem witness_OnlyTheirOwnInstructionsWriteIndexAndTimers :
    afterExec (.ldIAddr 1) State.reset (fun t => t.i != 0) = true ∧
      afterExec (.addIVx 0) (State.reset.setReg 0 1) (fun t => t.i != 0) = true ∧
      afterExec (.ldFVx 0) (State.reset.setReg 0 1) (fun t => t.i != 0) = true ∧
      afterExec (.ldDtVx 0) (State.reset.setReg 0 1) (fun t => t.dt != 0) = true ∧
      afterExec (.ldStVx 0) (State.reset.setReg 0 1) (fun t => t.st != 0) = true := by decide

theorem witness_FlagRegisterHasOnlyItsOwnWriters :
    afterExec (.subVxVy 0 0) State.reset (fun t => t.reg 15 != State.reset.reg 15) = true ∧
      afterExec (.ldVxByte 15 1) State.reset (fun t => t.reg 15 != State.reset.reg 15) = true := by decide

theorem witness_KeysReachOnlyTheKeyInstructions :
    readsKeys (.jp 0x200) = false ∧ ∃ t, exec (.jp 0x200) State.reset = .next t := ⟨rfl, _, rfl⟩

/-- A wait, a completed step and a fault. -/
theorem witness_HostStepReportsItsOutcome :
    (Executes (running 0xF00A id) (.ldVxK 0) ∧ (hostStep 0 (running 0xF00A id)).2.halt = none) ∧
    (Executes State.reset (.sys 0) ∧ (hostStep 0 State.reset).2.halt = none ∧ ∀ x, Instr.sys 0 ≠ .ldVxK x) ∧
    (hostStep 0 (running 0x00EE id)).2.halt = some (.stackUnderflow 0x200) :=
  ⟨⟨⟨rfl, by decide, rfl⟩, rfl⟩, ⟨⟨rfl, by decide, rfl⟩, rfl, nofun⟩, rfl⟩

theorem witness_DisplayPortReadsThePixel : (63 < 64 ∧ 31 < 32) ∧ (64 ≤ 64 ∨ 32 ≤ 0) ∧ (64 ≤ 0 ∨ 32 ≤ 32) := by decide

end Sys2Proof.Tests
end

section
/-! SUPPORT. What a state's updates leave unchanged, as a `Frame`, and the skips of 41_skip.md. -/

namespace Sys2Proof.Machine

theorem Frame.refl (changed : List Part) (s : State) : Frame changed s s := fun p _ => Part.same_refl s p

theorem State.frame_setPc (s : State) (w : Word) : Frame [.counter] s (s.setPc w) := by
  intro p hp
  cases p with
  | counter => simp at hp
  | _ => simp [Part.same]

/-- A skip either leaves the state as it is or sets `PC` (R66). -/
theorem State.frame_skipIf (s : State) (c : Bool) : Frame [.counter] s (s.skipIf c) := by
  cases c with
  | false => exact Frame.refl _ s
  | true => exact s.frame_setPc (s.pc + 2)

/-- Settles O18: each of the four instructions answers the state's `skipIf` on its own condition, whose `PC` is
`State.skipIf_pc` and whose frame is `State.frame_skipIf`. -/
theorem skipsMoveOnlyThePc : Obligations.SkipsMoveOnlyThePc := by
  intro s x y kk
  refine ⟨⟨s.skipIf (s.reg x == kk), rfl, ?_, s.frame_skipIf _⟩,
    ⟨s.skipIf (s.reg x != kk), rfl, ?_, s.frame_skipIf _⟩,
    ⟨s.skipIf (s.reg x == s.reg y), rfl, ?_, s.frame_skipIf _⟩,
    ⟨s.skipIf (s.reg x != s.reg y), rfl, ?_, s.frame_skipIf _⟩⟩
  · simp only [State.skipIf_pc, beq_iff_eq]
  · simp only [State.skipIf_pc, bne_iff_ne, ite_not]
  · simp only [State.skipIf_pc, beq_iff_eq]
  · simp only [State.skipIf_pc, bne_iff_ne, ite_not]

end Sys2Proof.Machine
end

section
/-! SUPPORT. What a write of the framebuffer leaves unchanged, as a `Frame`, and `CLS` of 42_display.md. -/

namespace Sys2Proof.Machine

theorem State.frame_setDisp (s : State) (d : Display) : Frame [.display] s (s.setDisp d) := by
  intro p hp
  cases p with
  | display => simp at hp
  | _ => simp [Part.same]

/-- Settles O20: `CLS` answers the state with the blank display, whose pixels are off (`Display.pixel_blank`) and whose
frame is `State.frame_setDisp`. -/
theorem clearTurnsEveryPixelOff : Obligations.ClearTurnsEveryPixelOff := by
  intro s
  have hoff : ∀ x y, (s.setDisp Display.blank).disp.pixel x y = false := fun x y => by
    rw [State.setDisp_disp, Display.pixel_blank]
  exact ⟨s.setDisp Display.blank, rfl, hoff, s.frame_setDisp Display.blank⟩

end Sys2Proof.Machine
end

section
/-! SUPPORT. What a write of a register and of the random source leave unchanged, as a `Frame`, the bits of the source's
byte, and `RND` of 43_random.md. -/

namespace Sys2Proof.Machine

theorem Part.same_trans {s t u : State} {p : Part} (hst : p.same s t) (htu : p.same t u) : p.same s u := by
  cases p with
  | memory | regs | stack => exact fun k => (htu k).trans (hst k)
  | display => exact fun x y => (htu x y).trans (hst x y)
  | _ => exact Eq.trans htu hst

/-- Two updates in turn change at most the parts either changes. -/
theorem Frame.trans {s t u : State} {c d : List Part} (hst : Frame c s t) (htu : Frame d t u) :
    Frame (d ++ c) s u := by
  intro p hp
  rw [List.mem_append, not_or] at hp
  obtain ⟨hd, hc⟩ := hp
  exact Part.same_trans (hst p hc) (htu p hd)

theorem State.frame_setReg (s : State) (x : Reg) (b : Byte) : Frame [.regs] s (s.setReg x b) := by
  intro p hp
  cases p with
  | regs => simp at hp
  | _ => simp [Part.same]

theorem State.otherRegs_setReg (s : State) (x : Reg) (b : Byte) : OtherRegs [x] s (s.setReg x b) :=
  fun _ hr => s.reg_setReg_other b (List.ne_of_not_mem_cons hr)

theorem State.frame_setRng (s : State) (r : BitVec 32) : Frame [.random] s (s.setRng r) := by
  intro p hp
  cases p with
  | random => simp at hp
  | _ => simp [Part.same]

/-- The next state lies below the modulus (R75). -/
theorem lcgNext_lt (r : BitVec 32) : (lcgNext r).toNat < 2 ^ 31 := by
  rw [lcgNext_toNat]
  exact Nat.mod_lt _ (by decide)

/-- Bit `k` of the source's byte is bit `8 + k` of its state (R76). -/
theorem lcgByte_getLsbD (r : BitVec 32) {k : Nat} (hk : k < 8) : (lcgByte r).getLsbD k = r.getLsbD (8 + k) := by
  simp [lcgByte, hk]

/-- `RND` completes: it advances the source and writes its masked byte to `V[x]` (R77). -/
theorem exec_rnd (s : State) (x : Reg) (kk : Byte) :
    exec (.rnd x kk) s = .next ((s.setRng (lcgNext s.rng)).setReg x (lcgByte (lcgNext s.rng) &&& kk)) := rfl

/-- Settles O23: `RND` is a write of the source followed by a write of `V[x]`. The new source is exact by
`lcgNext_toNat`, its byte's bits are those of `lcgByte_getLsbD`, and the frame is the two writes' frames joined. -/
theorem randomAdvancesTheSourceAndMasksItsByte : Obligations.RandomAdvancesTheSourceAndMasksItsByte := by
  intro s x kk
  have hbits : ∀ k, k < 8 → (lcgByte (lcgNext s.rng) &&& kk).getLsbD k =
      ((lcgNext s.rng).getLsbD (8 + k) && kk.getLsbD k) := fun k hk => by
    rw [BitVec.getLsbD_and, lcgByte_getLsbD _ hk]
  refine ⟨_, exec_rnd s x kk, lcgNext_toNat s.rng, lcgNext_lt s.rng, ?_, ?_, ?_⟩
  · simpa only [State.reg_setReg_same, State.setReg_rng, State.setRng_rng] using hbits
  · exact (s.setRng _).otherRegs_setReg x _
  · exact (s.frame_setRng _).trans ((s.setRng _).frame_setReg x _)

end Sys2Proof.Machine
end

section
/-! SUPPORT. The step that reaches an instruction's execute phase, and `SYS` of 44_control.md. -/

namespace Sys2Proof.Machine

/-- A step whose two bytes at `PC` decode to `i` is the execute phase of `i` after the decode advance (R45). -/
theorem step_of_executes {s : State} {i : Instr} (h : Executes s i) : step s = exec i s.advance := by
  obtain ⟨hrun, hpc, hbytes⟩ := h
  have hdecode := (decodeBytes_pair _ _ _).1 hbytes
  simp only [step, hrun, fetchDecode, fetch_of_inRange hpc, hdecode]

theorem State.frame_advance (s : State) : Frame [.counter] s s.advance := s.frame_setPc (s.pc + 2)

/-- `SYS` completes and does nothing (R78). -/
theorem exec_sys (s : State) (nnn : Addr12) : exec (.sys nnn) s = .next s := rfl

/-- Settles O8: the execute phase of `SYS` is empty (`exec_sys`), so what its step does is the decode advance alone. -/
theorem sysStepOnlyAdvancesThePc : Obligations.SysStepOnlyAdvancesThePc := by
  intro s nnn
  refine ⟨exec_sys s nnn, fun hexec => ?_⟩
  have hstep : step s = .next s.advance := (step_of_executes hexec).trans (exec_sys s.advance nnn)
  exact ⟨s.advance, hstep, s.advance_pc, s.frame_advance⟩

end Sys2Proof.Machine
end

section
/-! SUPPORT. The encoder and the decoder undo each other (30_encoding.md R40, R44, R46), and which words the decoder
refuses (R47). -/

namespace Sys2Proof

/-! ### The decoder after the encoder -/

/-- Decoding the encoding of an instruction of the core gives it back: the fields of its word are its family, its
operands and its sub-opcode, and these are what the decoder selects by. -/
theorem decode_encode {i : Instr} (hi : i.wellFormed = true) : decode (encode i) = .ok i := by
  cases i with
  | cls | ret => rfl
  | sys nnn =>
    obtain ⟨hop, hnnn⟩ := fields_wordNnn (op := 0x0) (by decide) nnn
    simp only [Instr.wellFormed, Bool.and_eq_true, bne_iff_ne] at hi
    simp only [encode, decode, hop, decodeFamily0, hnnn]
    split
    · exact absurd rfl hi.1
    · exact absurd rfl hi.2
    · rfl
  | jp | call | ldIAddr | jpV0Addr => simp [encode, decode, fields_wordNnn]
  | seVxByte | sneVxByte | ldVxByte | addVxByte | rnd => simp [encode, decode, fields_wordXkk]
  | skpVx | sknpVx => simp [encode, decode, fields_wordXkk, decodeFamilyE]
  | ldVxDt | ldVxK | ldDtVx | ldStVx | addIVx | ldFVx | ldBVx | ldIVx | ldVxI =>
    simp [encode, decode, fields_wordXkk, decodeFamilyF]
  | seVxVy => simp [encode, decode, fields_wordXyn, decodeFamily5]
  | sneVxVy => simp [encode, decode, fields_wordXyn, decodeFamily9]
  | ldVxVy | orVxVy | andVxVy | xorVxVy | addVxVy | subVxVy | shrVx | subnVxVy | shlVx =>
    simp [encode, decode, fields_wordXyn, decodeFamily8]
  | drw x y n =>
    obtain ⟨hop, hx, hy, -, hn⟩ := fields_wordXyn (op := 0xD) (by decide) x y n.isLt
    simp [encode, decode, hop, hx, hy, Fin.ext hn]

/-- Settles O10: two bytes decode as their word does, the word of the encoding's bytes is the encoding, and the decoder
undoes the encoder (`decode_encode`). -/
theorem decodeOfEncodeIsTheInstruction : Obligations.DecodeOfEncodeIsTheInstruction := by
  intro i hi
  rw [encodeBytes, bytesOfWord, decodeBytes_pair, wordOfBytes_bytesOfWord]
  exact decode_encode hi

/-! ### A word from its fields -/

theorem wordNnn_of_fields {w : Word} {op : BitVec 4} {nnn : Addr12} (hop : opField w = op) (hnnn : nnnField w = nnn) :
    wordNnn op.toNat nnn = w := by
  subst hop hnnn
  apply BitVec.eq_of_toNat_eq
  rw [wordNnn_toNat (opField w).isLt, opField_toNat, nnnField_toNat]
  omega

theorem wordXkk_of_fields {w : Word} {op : BitVec 4} {kk : Byte} (hop : opField w = op) (hkk : kkField w = kk) :
    wordXkk op.toNat (xField w) kk = w := by
  subst hop hkk
  apply BitVec.eq_of_toNat_eq
  rw [wordXkk_toNat (opField w).isLt, opField_toNat, xField_val, kkField_toNat]
  omega

theorem wordXyn_of_fields {w : Word} {op n : BitVec 4} (hop : opField w = op) (hn : subField w = n) :
    wordXyn op.toNat (xField w) (yField w) n.toNat = w := by
  subst hop hn
  apply BitVec.eq_of_toNat_eq
  rw [wordXyn_toNat (opField w).isLt _ _ (subField w).isLt, opField_toNat, xField_val, yField_val, subField_toNat]
  omega

/-- The low nibble is one number, read as a sprite height or as a sub-opcode. -/
theorem nField_val_eq_subField (w : Word) : (nField w).val = (subField w).toNat := by
  rw [nField_val, subField_toNat]

/-! ### The encoder after the decoder, family by family -/

/-- `i` is an instruction of the core and `w` is its word (R44). -/
def Instr.IsReadingOf (i : Instr) (w : Word) : Prop := i.wellFormed = true ∧ encode i = w

theorem isReadingOf_decodeFamily0 {w : Word} {i : Instr} (hop : opField w = 0x0#4) (h : decodeFamily0 w = .ok i) :
    i.IsReadingOf w := by
  unfold decodeFamily0 at h
  split at h <;> cases h
  case h_1 hnnn | h_2 hnnn => exact ⟨rfl, (wordNnn_of_fields hop hnnn :)⟩
  case h_3 hcls hret =>
    refine ⟨?_, (wordNnn_of_fields hop rfl :)⟩
    rw [Instr.wellFormed, Bool.and_eq_true, bne_iff_ne, bne_iff_ne]
    exact ⟨hcls, hret⟩

theorem isReadingOf_decodeFamily5 {w : Word} {i : Instr} (hop : opField w = 0x5#4) (h : decodeFamily5 w = .ok i) :
    i.IsReadingOf w := by
  unfold decodeFamily5 at h
  split at h <;> cases h
  case h_1 hsub => exact ⟨rfl, (wordXyn_of_fields hop hsub :)⟩

theorem isReadingOf_decodeFamily8 {w : Word} {i : Instr} (hop : opField w = 0x8#4) (h : decodeFamily8 w = .ok i) :
    i.IsReadingOf w := by
  unfold decodeFamily8 at h
  split at h <;> cases h
  all_goals exact ⟨rfl, (wordXyn_of_fields hop ‹_› :)⟩

theorem isReadingOf_decodeFamily9 {w : Word} {i : Instr} (hop : opField w = 0x9#4) (h : decodeFamily9 w = .ok i) :
    i.IsReadingOf w := by
  unfold decodeFamily9 at h
  split at h <;> cases h
  case h_1 hsub => exact ⟨rfl, (wordXyn_of_fields hop hsub :)⟩

theorem isReadingOf_decodeFamilyE {w : Word} {i : Instr} (hop : opField w = 0xE#4) (h : decodeFamilyE w = .ok i) :
    i.IsReadingOf w := by
  unfold decodeFamilyE at h
  split at h <;> cases h
  case h_1 hkk | h_2 hkk => exact ⟨rfl, (wordXkk_of_fields hop hkk :)⟩

theorem isReadingOf_decodeFamilyF {w : Word} {i : Instr} (hop : opField w = 0xF#4) (h : decodeFamilyF w = .ok i) :
    i.IsReadingOf w := by
  unfold decodeFamilyF at h
  split at h <;> cases h
  all_goals exact ⟨rfl, (wordXkk_of_fields hop ‹_› :)⟩

/-- What the decoder reads from a word is an instruction of the core whose word it is (R44). -/
theorem isReadingOf_of_decode {w : Word} {i : Instr} (h : decode w = .ok i) : i.IsReadingOf w := by
  unfold decode at h
  split at h
  case h_1 hop => exact isReadingOf_decodeFamily0 hop h
  case h_6 hop => exact isReadingOf_decodeFamily5 hop h
  case h_9 hop => exact isReadingOf_decodeFamily8 hop h
  case h_10 hop => exact isReadingOf_decodeFamily9 hop h
  case h_15 hop => exact isReadingOf_decodeFamilyE hop h
  case h_16 hop => exact isReadingOf_decodeFamilyF hop h
  case h_17 => cases h
  case h_2 hop | h_3 hop | h_11 hop | h_12 hop =>
    cases h
    exact ⟨rfl, (wordNnn_of_fields hop rfl :)⟩
  case h_4 hop | h_5 hop | h_7 hop | h_8 hop | h_13 hop =>
    cases h
    exact ⟨rfl, (wordXkk_of_fields hop rfl :)⟩
  case h_14 hop =>
    cases h
    refine ⟨rfl, ?_⟩
    rw [encode, nField_val_eq_subField]
    exact (wordXyn_of_fields hop rfl :)

/-- Settles O11: the statement is `isReadingOf_of_decode`. -/
theorem encodeOfDecodeIsTheWord : Obligations.EncodeOfDecodeIsTheWord := fun _ _ h => isReadingOf_of_decode h

/-! ### The words of each family that the decoder accepts -/

theorem exists_decodeFamily0 (w : Word) : ∃ i, decodeFamily0 w = .ok i := by
  unfold decodeFamily0
  split <;> exact ⟨_, rfl⟩

theorem exists_decodeFamily5_iff (w : Word) : (∃ i, decodeFamily5 w = .ok i) ↔ subField w = 0 := by
  unfold decodeFamily5
  split <;> simp_all

theorem exists_decodeFamily8_iff (w : Word) :
    (∃ i, decodeFamily8 w = .ok i) ↔ subField w ∈ [0x0#4, 0x1, 0x2, 0x3, 0x4, 0x5, 0x6, 0x7, 0xE] := by
  unfold decodeFamily8
  split <;> simp_all

theorem exists_decodeFamily9_iff (w : Word) : (∃ i, decodeFamily9 w = .ok i) ↔ subField w = 0 := by
  unfold decodeFamily9
  split <;> simp_all

theorem exists_decodeFamilyE_iff (w : Word) : (∃ i, decodeFamilyE w = .ok i) ↔ kkField w ∈ [0x9E#8, 0xA1] := by
  unfold decodeFamilyE
  split <;> simp_all

theorem exists_decodeFamilyF_iff (w : Word) :
    (∃ i, decodeFamilyF w = .ok i) ↔
      kkField w ∈ [0x07#8, 0x0A, 0x15, 0x18, 0x1E, 0x29, 0x33, 0x55, 0x65] := by
  unfold decodeFamilyF
  split <;> simp_all

/-- The decoder accepts a word exactly when R47's table does not list it. The sixteen families are all of `op`, so its
last arm is reached by no word. -/
theorem exists_decode_iff (w : Word) : (∃ i, decode w = .ok i) ↔ Machine.illegalWord w.toNat = false := by
  have hop : w.toNat / 4096 = (opField w).toNat := (opField_toNat w).symm
  unfold decode Machine.illegalWord
  rw [hop, ← subField_toNat, ← kkField_toNat]
  split
  case h_1 h => simp [h, exists_decodeFamily0]
  case h_6 h => simp [h, exists_decodeFamily5_iff, ← BitVec.toNat_inj]
  case h_9 h =>
    have hsub : ∀ n : BitVec 4, n ∈ [0x0#4, 0x1, 0x2, 0x3, 0x4, 0x5, 0x6, 0x7, 0xE] ↔
        [8, 9, 0xA, 0xB, 0xC, 0xD, 0xF].contains n.toNat = false := by decide
    simp only [h, exists_decodeFamily8_iff]
    exact hsub _
  case h_10 h => simp [h, exists_decodeFamily9_iff, ← BitVec.toNat_inj]
  case h_15 h =>
    have hkk : ∀ k : Byte, k ∈ [0x9E#8, 0xA1] ↔ (!([0x9E, 0xA1].contains k.toNat)) = false := by decide
    simp only [h, exists_decodeFamilyE_iff]
    exact hkk _
  case h_16 h =>
    have hkk : ∀ k : Byte, k ∈ [0x07#8, 0x0A, 0x15, 0x18, 0x1E, 0x29, 0x33, 0x55, 0x65] ↔
        (!([0x07, 0x0A, 0x15, 0x18, 0x1E, 0x29, 0x33, 0x55, 0x65].contains k.toNat)) = false := by decide
    simp only [h, exists_decodeFamilyF_iff]
    exact hkk _
  case h_17 =>
    exfalso
    simp only [imp_false, ← BitVec.toNat_inj, BitVec.toNat_ofNat] at *
    omega
  all_goals
    rename_i h
    simp [h]

/-- What the decoder does not accept it refuses with the word itself (R44). -/
theorem decode_eq_error_iff (w : Word) :
    decode w = .error (.invalidOpcode w) ↔ Machine.illegalWord w.toNat = true := by
  have hok := exists_decode_iff w
  cases hd : decode w with
  | ok i => simpa [hd] using hok
  | error e =>
    rw [Machine.decode_error hd]
    simpa [hd] using hok

/-- Settles O6: the decoder's two answers, by `decode_eq_error_iff` and `exists_decode_iff`. -/
theorem illegalWordsAreThoseOfTheTable : Obligations.IllegalWordsAreThoseOfTheTable := fun w =>
  ⟨decode_eq_error_iff w, exists_decode_iff w⟩

/-! ### Family 0 -/

/-- Settles O9: such a word is in family 0 and is not one of the two that the family names, so its low 12 bits are the
operand of `SYS`, and they are the whole word. -/
theorem familyZeroWordsDecodeToSys : Obligations.FamilyZeroWordsDecodeToSys := by
  intro w hw hcls hret
  have hnnn : (nnnField w).toNat = w.toNat := by rw [nnnField_toNat, Nat.mod_eq_of_lt hw]
  have hop : opField w = 0x0#4 := BitVec.eq_of_toNat_eq (by rw [opField_toNat, Nat.div_eq_of_lt hw]; rfl)
  refine ⟨nnnField w, hnnn, ?_⟩
  simp only [decode, hop, decodeFamily0]
  split
  case h_1 h => exact absurd (BitVec.eq_of_toNat_eq (by rw [← hnnn, h]; rfl)) hcls
  case h_2 h => exact absurd (BitVec.eq_of_toNat_eq (by rw [← hnnn, h]; rfl)) hret
  case h_3 => rfl

/-- Settles O12: each word is decoded by evaluation. -/
theorem sampleWordsDecode : Obligations.SampleWordsDecode := by
  unfold Obligations.SampleWordsDecode
  decide

end Sys2Proof
end

section
/-! SUPPORT. What each remaining update of the state leaves unchanged, as a `Frame`, and the step that faults before
anything is decoded (30_encoding.md R43, R44). -/

namespace Sys2Proof.Machine

/-! ### Frames -/

/-- A frame holds with more parts listed. -/
theorem Frame.mono {c d : List Part} {s t : State} (h : Frame c s t) (hcd : c ⊆ d) : Frame d s t :=
  fun p hp => h p fun hc => hp (hcd hc)

theorem State.frame_setIndex (s : State) (w : Word) : Frame [.index] s (s.setIndex w) := by
  intro p hp
  cases p with
  | index => simp at hp
  | _ => simp [Part.same]

theorem State.frame_setDelay (s : State) (b : Byte) : Frame [.delay] s (s.setDelay b) := by
  intro p hp
  cases p with
  | delay => simp at hp
  | _ => simp [Part.same]

theorem State.frame_setSound (s : State) (b : Byte) : Frame [.sound] s (s.setSound b) := by
  intro p hp
  cases p with
  | sound => simp at hp
  | _ => simp [Part.same]

theorem State.frame_setMem (s : State) (m : Memory) : Frame [.memory] s (s.setMem m) := by
  intro p hp
  cases p with
  | memory => simp at hp
  | _ => simp [Part.same]

theorem State.frame_setKeys (s : State) (k : BitVec 16) : Frame [.keys] s (s.setKeys k) := by
  intro p hp
  cases p with
  | keys => simp at hp
  | _ => simp [Part.same]

theorem State.frame_setStack (s : State) (q : Byte) (v : Vector Word 16) :
    Frame [.pointer, .stack] s (s.setStack q v) := by
  intro p hp
  cases p with
  | pointer | stack => simp at hp
  | _ => simp [Part.same]

theorem State.frame_pop (s : State) : Frame [.pointer] s s.pop := by
  intro p hp
  cases p with
  | pointer => simp at hp
  | _ => simp [Part.same]

theorem State.frame_takeFault (s : State) (f : Fault) : Frame [.halt] s (s.takeFault f) := by
  intro p hp
  cases p with
  | halt => simp at hp
  | _ => simp [Part.same]

theorem State.frame_loadRegs (s : State) (base : Nat) (x : Reg) : Frame [.regs] s (s.loadRegs base x) := by
  intro p hp
  cases p with
  | regs => simp at hp
  | _ => simp [Part.same]

theorem State.frame_push (s : State) (w : Word) : Frame [.pointer, .stack] s (s.push w) := s.frame_setStack _ _

theorem State.frame_writeResultFlag (s : State) (x : Reg) (r : Byte) (c : Bool) :
    Frame [.regs] s (s.writeResultFlag x r c) :=
  ((s.frame_setReg x r).trans ((s.setReg x r).frame_setReg _ _)).mono (by simp)

theorem frame_tick (s : State) : Frame [.delay, .sound] s (tick s) :=
  ((s.frame_setDelay _).trans ((s.setDelay _).frame_setSound _)).mono (by simp)

/-! ### A step that decodes nothing -/

theorem step_of_fetch_fault {s : State} {f : Fault} (hrun : s.halt = none) (h : fetch s = .error f) :
    step s = .next (s.takeFault f) := by
  simp only [step, hrun, fetchDecode, h]

theorem step_of_illegalWord {s : State} {w : Word} (hrun : s.halt = none) (hf : fetch s = .ok w)
    (hw : illegalWord w.toNat = true) : step s = .next (s.takeFault (.invalidOpcode w s.pc)) := by
  simp only [step, hrun, fetchDecode, hf, (decode_eq_error_iff w).2 hw]

/-- Settles O5: the first clause and the second are `fetch_of_outOfRange` with the larger of `PC` and 4096 worked out,
the third is `fetch_of_inRange` with the word's number. -/
theorem fetchChecksBothAddressesAndReadsBigEndian : Obligations.FetchChecksBothAddressesAndReadsBigEndian := by
  intro s hrun
  refine ⟨fun hpc => ?_, fun hpc => ?_, fun hpc => ?_⟩
  · have hf := fetch_of_outOfRange (s := s) (by omega)
    rw [Nat.max_eq_left hpc] at hf
    exact ⟨_, step_of_fetch_fault hrun hf, rfl, s.frame_takeFault _⟩
  · have hf := fetch_of_outOfRange (s := s) (by omega)
    rw [hpc] at hf
    exact ⟨_, step_of_fetch_fault hrun hf, rfl, s.frame_takeFault _⟩
  · exact ⟨_, fetch_of_inRange (by omega), wordOfBytes_toNat _ _⟩

/-- Settles O7: the step of an illegal word takes the fault (`step_of_illegalWord`) and nothing else
(`State.frame_takeFault`). -/
theorem illegalWordFaultsWithoutAdvancing : Obligations.IllegalWordFaultsWithoutAdvancing :=
  fun s _ hrun hf hw => ⟨_, step_of_illegalWord hrun hf hw, rfl, s.frame_takeFault _⟩

/-- Settles O4: `step_of_executes`, the decode advance being `State.advance`. -/
theorem stepRunsTheDecodedInstruction : Obligations.StepRunsTheDecodedInstruction := fun _ _ h => step_of_executes h

end Sys2Proof.Machine
end

section
/-! SUPPORT. 40_alu.md: what a write of a register, and a write of a result with its flag, leave in the registers. -/

namespace Sys2Proof.Machine

/-! ### Moves and bitwise operations -/

/-- What an instruction that writes `V[x]` alone must show: the value, the other registers, the frame. -/
theorem State.setReg_spec (s : State) (x : Reg) (b : Byte) :
    (s.setReg x b).reg x = b ∧ OtherRegs [x] s (s.setReg x b) ∧ Frame [.regs] s (s.setReg x b) :=
  ⟨s.reg_setReg_same x b, s.otherRegs_setReg x b, s.frame_setReg x b⟩

/-- Settles O13: each of the three is a write of `V[x]` (`State.setReg_spec`). -/
theorem movesAndImmediateAddWriteOneRegister : Obligations.MovesAndImmediateAddWriteOneRegister := by
  intro s x y kk
  obtain ⟨hsum, hother, hframe⟩ := s.setReg_spec x (s.reg x + kk)
  exact ⟨⟨_, rfl, s.setReg_spec x kk⟩, ⟨_, rfl, s.setReg_spec x (s.reg y)⟩,
    ⟨_, rfl, by rw [hsum, BitVec.toNat_add], hother, hframe⟩⟩

/-- Settles O14: each of the three is a write of `V[x]` (`State.setReg_spec`), and the bits of the value are the
library's. -/
theorem bitwiseOperationsWriteOneRegister : Obligations.BitwiseOperationsWriteOneRegister := by
  intro s x y
  obtain ⟨hor, horOther, horFrame⟩ := s.setReg_spec x (s.reg x ||| s.reg y)
  obtain ⟨hand, handOther, handFrame⟩ := s.setReg_spec x (s.reg x &&& s.reg y)
  obtain ⟨hxor, hxorOther, hxorFrame⟩ := s.setReg_spec x (s.reg x ^^^ s.reg y)
  exact ⟨⟨_, rfl, fun k => by rw [hor, BitVec.getLsbD_or], horOther, horFrame⟩,
    ⟨_, rfl, fun k => by rw [hand, BitVec.getLsbD_and], handOther, handFrame⟩,
    ⟨_, rfl, fun k => by rw [hxor, BitVec.getLsbD_xor], hxorOther, hxorFrame⟩⟩

/-! ### Results with a flag -/

theorem flagByte_decide_toNat (p : Prop) [Decidable p] : (flagByte (decide p)).toNat = if p then 1 else 0 := by
  by_cases h : p <;> simp [h]

theorem shiftedOutRight_toNat (a : Byte) : (flagByte (shiftedOutRight a)).toNat = a.toNat % 2 := by
  rw [shiftedOutRight, BitVec.getLsbD, Nat.testBit_eq_decide_div_mod_eq, flagByte_decide_toNat]
  split <;> omega

theorem shiftedOutLeft_toNat (a : Byte) : (flagByte (shiftedOutLeft a)).toNat = a.toNat / 128 := by
  rw [shiftedOutLeft, BitVec.getLsbD, Nat.testBit_eq_decide_div_mod_eq, flagByte_decide_toNat]
  split <;> omega

/-- The difference mod 256 (R62, R64). -/
theorem toNat_sub_eq_emod (a b : Byte) : ((a - b).toNat : Int) = (a.toNat - b.toNat : Int) % 256 := by
  rw [BitVec.toNat_sub]
  omega

/-- What an instruction that writes a result and then a flag answers, from its result `n` and flag `c` as numbers: the
result in `V[x]` unless that is `VF`, the flag in `VF` whatever `x` is (R54). -/
theorem State.writeResultFlag_spec (s : State) (x : Reg) {r : Byte} {f : Bool} {c : Nat}
    (hf : (flagByte f).toNat = c) :
    (x ≠ 15 → (s.writeResultFlag x r f).reg x = r) ∧ ((s.writeResultFlag x r f).reg 15).toNat = c ∧
      OtherRegs [x, 15] s (s.writeResultFlag x r f) ∧ Frame [.regs] s (s.writeResultFlag x r f) := by
  refine ⟨fun hx => ?_, ?_, fun q hq => ?_, s.frame_writeResultFlag x r f⟩
  · rw [State.reg_writeResultFlag, if_neg hx, if_pos rfl]
  · rw [State.reg_writeResultFlag, if_pos rfl, hf]
  · simp only [List.mem_cons, List.not_mem_nil, or_false, not_or] at hq
    rw [State.reg_writeResultFlag, if_neg hq.2, if_neg hq.1]

/-- Settles O15: the sum and the carry, written in that order (`State.writeResultFlag_spec`). -/
theorem addWritesSumThenCarry : Obligations.AddWritesSumThenCarry := by
  intro s x y
  obtain ⟨hr, hflag⟩ := s.writeResultFlag_spec x (r := s.reg x + s.reg y)
    (flagByte_decide_toNat ((s.reg x).toNat + (s.reg y).toNat ≥ 256))
  exact ⟨_, rfl, fun hx => by rw [carry, hr hx, BitVec.toNat_add], hflag⟩

/-- Settles O16: a difference and its no-borrow flag, written in that order (`State.writeResultFlag_spec`), for each
direction. -/
theorem subtractionsWriteDifferenceThenNoBorrow : Obligations.SubtractionsWriteDifferenceThenNoBorrow := by
  intro s x y
  obtain ⟨hsub, hsubFlag⟩ := s.writeResultFlag_spec x (r := s.reg x - s.reg y)
    (flagByte_decide_toNat ((s.reg x).toNat ≥ (s.reg y).toNat))
  obtain ⟨hsubn, hsubnFlag⟩ := s.writeResultFlag_spec x (r := s.reg y - s.reg x)
    (flagByte_decide_toNat ((s.reg y).toNat ≥ (s.reg x).toNat))
  exact ⟨⟨_, rfl, fun hx => by rw [noBorrow, hsub hx, toNat_sub_eq_emod], hsubFlag⟩,
    ⟨_, rfl, fun hx => by rw [noBorrow, hsubn hx, toNat_sub_eq_emod], hsubnFlag⟩⟩

/-- Settles O17: a shift of `V[x]` and the bit it moves out, written in that order (`State.writeResultFlag_spec`); the
meaning does not name `y`. -/
theorem shiftsWriteResultThenShiftedOutBit : Obligations.ShiftsWriteResultThenShiftedOutBit := by
  intro s x y
  obtain ⟨hshr, hshrFlag⟩ := s.writeResultFlag_spec x (r := s.reg x >>> 1) (shiftedOutRight_toNat (s.reg x))
  obtain ⟨hshl, hshlFlag⟩ := s.writeResultFlag_spec x (r := s.reg x <<< 1) (shiftedOutLeft_toNat (s.reg x))
  refine ⟨⟨_, rfl, fun hx => ?_, hshrFlag⟩, ⟨_, rfl, fun hx => ?_, hshlFlag⟩⟩
  · rw [hshr hx, BitVec.toNat_ushiftRight, Nat.shiftRight_eq_div_pow, Nat.pow_one]
  · rw [hshl hx, BitVec.toNat_shiftLeft, Nat.shiftLeft_eq, Nat.pow_one]

end Sys2Proof.Machine
end

section
/-! SUPPORT. 41_skip.md over the whole step, 46_timers_keypad.md and 43_random.md. -/

namespace Sys2Proof.Machine

/-! ### The key tests and the wait for a key -/

/-- A key test of a value that names a key skips on the key's level (R94, R95). -/
theorem keyTest_of_lt {s : State} {x : Reg} (h : (s.reg x).toNat < 16) (down : Bool) :
    keyTest x down s = .next (s.skipIf (s.keys.getLsbD (s.reg x).toNat == down)) := dif_pos h

/-- A key test of any other value faults (R93). -/
theorem keyTest_of_ge {s : State} {x : Reg} (h : 16 ≤ (s.reg x).toNat) (down : Bool) :
    keyTest x down s = .next (s.takeFault (.invalidKey (s.reg x) (s.pc - 2))) := dif_neg (by omega)

theorem exec_skpVx (s : State) (x : Reg) : exec (.skpVx x) s = keyTest x true s := rfl

theorem exec_sknpVx (s : State) (x : Reg) : exec (.sknpVx x) s = keyTest x false s := rfl

theorem exec_skpVx_of_lt {s : State} {x : Reg} (h : (s.reg x).toNat < 16) :
    exec (.skpVx x) s = .next (s.skipIf (s.keys.getLsbD (s.reg x).toNat)) := by
  rw [exec_skpVx, keyTest_of_lt h, beq_true]

theorem exec_sknpVx_of_lt {s : State} {x : Reg} (h : (s.reg x).toNat < 16) :
    exec (.sknpVx x) s = .next (s.skipIf (!s.keys.getLsbD (s.reg x).toNat)) := by
  rw [exec_sknpVx, keyTest_of_lt h, beq_false]

theorem exec_ldVxK_of_none {s : State} (h : keyChoice s.keys = none) (x : Reg) :
    exec (.ldVxK x) s = .next (s.setPc (s.pc - 2)) := by
  simp only [exec, execLdVxK, h, State.instrAddr_eq]

theorem exec_ldVxK_of_some {s : State} {k : Key} (h : keyChoice s.keys = some k) (x : Reg) :
    exec (.ldVxK x) s = .next (s.setReg x (keyByte k)) := by
  simp only [exec, execLdVxK, h]

theorem keyByte_toNat (k : Key) : (keyByte k).toNat = k.val := by
  rw [keyByte, BitVec.toNat_ofNat]
  omega

/-- Settles O39: the two answers of `keyTest`, with the skip's `PC` and frame. -/
theorem keyTestsSkipOnTheLevelOrFault : Obligations.KeyTestsSkipOnTheLevelOrFault := by
  refine fun s x => ⟨fun h => ?_, fun h => ?_⟩
  · refine ⟨⟨_, exec_skpVx_of_lt h, s.skipIf_pc _, s.frame_skipIf _⟩,
      ⟨_, exec_sknpVx_of_lt h, ?_, s.frame_skipIf _⟩⟩
    cases hk : s.keys.getLsbD (s.reg x).toNat <;> simp
  · exact ⟨⟨_, keyTest_of_ge h true, rfl, s.frame_takeFault _⟩,
      ⟨_, keyTest_of_ge h false, rfl, s.frame_takeFault _⟩⟩

/-- Settles O40: with a key down `keyChoice` gives one that is down, whose number is written; with none down it gives
none. -/
theorem keyWaitStoresADownKeyOrMovesBack : Obligations.KeyWaitStoresADownKeyOrMovesBack := by
  refine fun s x => ⟨fun h => ?_, fun h => ?_⟩
  · obtain ⟨k, hk⟩ := keyChoice_of_ne_zero h
    obtain ⟨hr, hother, hframe⟩ := s.setReg_spec x (keyByte k)
    exact ⟨_, k, exec_ldVxK_of_some hk x, keyChoice_down hk, by rw [hr, keyByte_toNat], hother, hframe⟩
  · have hnone : keyChoice s.keys = none := by rw [h]; exact keyChoice_zero
    exact ⟨_, exec_ldVxK_of_none hnone x, rfl, s.frame_setPc _⟩

/-! ### Skips over the whole step -/

/-- A step whose execute phase is a skip moves `PC` by 2 for the decode advance and by 2 more where the condition holds.
The fetch bounds `PC`, so neither sum wraps (R43, R66). -/
theorem stepSkips_of_exec {s : State} {i : Instr} {c : Bool} (hexec : Executes s i)
    (hskip : exec i s.advance = .next (s.advance.skipIf c)) : StepSkips s c := by
  have hpc : s.pc.toNat + 1 < 4096 := hexec.2.1
  have hframe := s.frame_advance.trans (s.advance.frame_skipIf c)
  refine ⟨_, (step_of_executes hexec).trans hskip, ?_, hframe.mono (by simp)⟩
  rw [State.skipIf_pc, State.advance_pc]
  cases c <;> simp only [Bool.false_eq_true, if_true, if_false] <;> bv_omega

/-- Settles O19: each of the six is a skip on its own condition after the decode advance (`stepSkips_of_exec`). -/
theorem skipStepMovesThePcByFourOrTwo : Obligations.SkipStepMovesThePcByFourOrTwo := by
  intro s x y kk
  refine ⟨fun h => ?_, fun h => ?_, fun h => ?_, fun h => ?_, fun h hx => ?_, fun h hx => ?_⟩
  · exact stepSkips_of_exec h rfl
  · exact stepSkips_of_exec h rfl
  · exact stepSkips_of_exec h rfl
  · exact stepSkips_of_exec h rfl
  · exact stepSkips_of_exec h (exec_skpVx_of_lt (s := s.advance) hx)
  · exact stepSkips_of_exec h (exec_sknpVx_of_lt (s := s.advance) hx)

/-! ### Timers -/

/-- Settles O37: a write of a register, of `DT` and of `ST`. -/
theorem timerMovesCopyOneByte : Obligations.TimerMovesCopyOneByte := fun s x =>
  ⟨⟨_, rfl, s.setReg_spec x s.dt⟩, ⟨_, rfl, rfl, s.frame_setDelay _⟩, ⟨_, rfl, rfl, s.frame_setSound _⟩⟩

theorem countDown_toNat (b : Byte) : (countDown b).toNat = b.toNat - 1 := by
  unfold countDown
  split
  · simp [*]
  · bv_omega

/-- Settles O38: each timer by `countDown_toNat`, the rest by `frame_tick`. -/
theorem tickCountsBothTimersDownToZero : Obligations.TickCountsBothTimersDownToZero := fun s =>
  ⟨countDown_toNat s.dt, countDown_toNat s.st, frame_tick s⟩

/-! ### The random source -/

/-- Settles O24: `RND` reads the source through its next state only, which the sources share (`lcgNext_congr`). -/
theorem randomSeesTheSourceModuloItsModulus : Obligations.RandomSeesTheSourceModuloItsModulus := by
  intro s x kk r h
  rw [exec_rnd, exec_rnd, State.setRng_rng, lcgNext_congr h]
  rfl

end Sys2Proof.Machine
end

section
/-! SUPPORT. 44_control.md: jumps, calls and returns. -/

namespace Sys2Proof.Machine

theorem exec_call_of_lt {s : State} (h : s.sp.toNat + 1 < 16) (nnn : Addr12) :
    exec (.call nnn) s = .next ((s.push s.pc).setPc (addrOperand nnn)) := if_neg (Nat.not_le.2 h)

theorem exec_call_of_ge {s : State} (h : 16 ≤ s.sp.toNat + 1) (nnn : Addr12) :
    exec (.call nnn) s = .next (s.takeFault (.stackOverflow (s.pc - 2))) := if_pos h

theorem exec_ret_of_ne {s : State} (h : s.sp ≠ 0) : exec .ret s = .next ((s.setPc s.stackTop).pop) := if_neg h

theorem exec_ret_of_eq {s : State} (h : s.sp = 0) :
    exec .ret s = .next (s.takeFault (.stackUnderflow (s.pc - 2))) := if_pos h

/-- The target of `JP V0` is the exact sum: it is below 2^16 (R82). -/
theorem jpV0Target_toNat (s : State) (nnn : Addr12) :
    (addrOperand nnn + s.regWide 0).toNat = nnn.toNat + (s.reg 0).toNat := by
  rw [BitVec.toNat_add, addrOperand_toNat, State.regWide_toNat]
  omega

/-- Settles O25: each jump is a write of `PC`, with the target's number worked out. -/
theorem jumpsWriteOnlyThePc : Obligations.JumpsWriteOnlyThePc := fun s nnn =>
  ⟨⟨_, rfl, addrOperand_toNat nnn, s.frame_setPc _⟩, ⟨_, rfl, jpV0Target_toNat s nnn, s.frame_setPc _⟩⟩

theorem State.push_sp_toNat {s : State} (h : s.sp.toNat + 1 < 16) (w : Word) :
    (s.push w).sp.toNat = s.sp.toNat + 1 := by
  rw [State.push_sp]
  bv_omega

/-- Settles O26: a call with a slot free is a push and a jump, else it takes the fault. -/
theorem callPushesTheAdvancedPcOrOverflows : Obligations.CallPushesTheAdvancedPcOrOverflows := by
  refine fun s nnn => ⟨fun h => ?_, fun h => ?_⟩
  · exact ⟨_, exec_call_of_lt h nnn, State.push_sp_toNat h s.pc, s.push_slot s.pc, addrOperand_toNat nnn,
      (s.frame_push s.pc).trans ((s.push s.pc).frame_setPc _)⟩
  · exact ⟨_, _, exec_call_of_ge h nnn, rfl, s.frame_takeFault _⟩

/-- Settles O27: a return from a frame loads `PC` from the top slot and pops, else it takes the fault. -/
theorem returnPopsOrUnderflows : Obligations.ReturnPopsOrUnderflows := by
  refine fun s => ⟨fun k hk hk0 => ?_, fun h => ?_⟩
  · have hpos : 0 < k.val := Nat.pos_of_ne_zero fun h => hk0 (Fin.ext h)
    have hsp : s.sp ≠ 0 := by bv_omega
    have htop : s.stackTop = s.stack[k] := by
      rw [State.stackTop_of_lt (by omega)]
      simp only [hk, Fin.getElem_fin]
    refine ⟨_, exec_ret_of_ne hsp, htop, ?_, ((s.frame_setPc _).trans (s.setPc _).frame_pop).mono (by simp)⟩
    rw [State.pop_sp, State.setPc_sp]
    bv_omega
  · exact ⟨_, _, exec_ret_of_eq h, rfl, s.frame_takeFault _⟩

/-- Settles O28: the call leaves its successor in the slot that `SP` points to, so the return takes it from there. -/
theorem returnAfterCallGoesToItsSuccessor : Obligations.ReturnAfterCallGoesToItsSuccessor := by
  intro s t u nnn hsp hcall husp hustack
  have hroom : s.sp.toNat + 1 < 16 := by omega
  rw [exec_call_of_lt hroom] at hcall
  cases hcall
  simp only [State.setPc_sp, State.push_sp] at husp
  simp only [State.setPc_stack] at hustack
  have hsp1 : u.sp.toNat = s.sp.toNat + 1 := by bv_omega
  have htop : u.stackTop = s.pc := by
    rw [State.stackTop_of_lt (by omega)]
    simp only [hustack, hsp1]
    exact (s.push_slot s.pc ⟨s.sp.toNat + 1, hroom⟩).trans (if_pos rfl)
  refine ⟨_, exec_ret_of_ne (s := u) (by bv_omega), htop, ?_⟩
  rw [State.pop_sp, State.setPc_sp]
  bv_omega

end Sys2Proof.Machine
end

section
/-! SUPPORT. 45_index_memory.md: the index register, the font lookup, and the stores and loads through `I`. -/

namespace Sys2Proof.Machine

/-! ### The index register -/

theorem exec_addIVx_of_le {s : State} {x : Reg} (h : s.i.toNat + (s.reg x).toNat ≤ 0xFFFF) :
    exec (.addIVx x) s = .next (s.setIndex (BitVec.ofNat 16 (s.i.toNat + (s.reg x).toNat))) := if_neg (Nat.not_lt.2 h)

theorem exec_addIVx_of_gt {s : State} {x : Reg} (h : 0xFFFF < s.i.toNat + (s.reg x).toNat) :
    exec (.addIVx x) s =
      .next (s.takeFault (.outOfBoundsAccess (s.i.toNat + (s.reg x).toNat) (s.pc - 2))) := if_pos h

theorem exec_ldFVx_of_le {s : State} {x : Reg} (h : (s.reg x).toNat ≤ 15) :
    exec (.ldFVx x) s = .next (s.setIndex (BitVec.ofNat 16 (5 * (s.reg x).toNat))) := if_neg (Nat.not_lt.2 h)

theorem exec_ldFVx_of_gt {s : State} {x : Reg} (h : 15 < (s.reg x).toNat) :
    exec (.ldFVx x) s = .next (s.takeFault (.invalidDigit (s.reg x) (s.pc - 2))) := if_pos h

/-- Settles O29: `LD I` is a write of `I`; `ADD I` is one where the sum fits, and else takes the fault. -/
theorem indexLoadAndAddAreExact : Obligations.IndexLoadAndAddAreExact := by
  refine fun s x nnn => ⟨⟨_, rfl, addrOperand_toNat nnn, s.frame_setIndex _⟩, fun h => ?_, fun h => ?_⟩
  · refine ⟨_, exec_addIVx_of_le h, ?_, s.frame_setIndex _⟩
    rw [State.setIndex_i, BitVec.toNat_ofNat]
    omega
  · exact ⟨_, exec_addIVx_of_gt h, rfl, s.frame_takeFault _⟩

/-- Settles O30: `LD F` is a write of `I` for a digit, and else takes the fault. -/
theorem fontLookupGivesTheGlyphAddressOrFaults : Obligations.FontLookupGivesTheGlyphAddressOrFaults := by
  refine fun s x => ⟨fun h => ?_, fun h => ?_⟩
  · refine ⟨_, exec_ldFVx_of_le h, ?_, s.frame_setIndex _⟩
    rw [State.setIndex_i, BitVec.toNat_ofNat]
    omega
  · exact ⟨_, _, exec_ldFVx_of_gt h, rfl, s.frame_takeFault _⟩

/-! ### The accesses through `I` -/

theorem exec_ldBVx_of_inRange {s : State} (h : s.indexAddr + 2 < 4096) (x : Reg) :
    exec (.ldBVx x) s = .next (s.setMem (s.mem.writeBytes s.indexAddr (bcdDigits (s.reg x)))) :=
  withAccess_of_inRange (.inr (by omega))

theorem exec_ldIVx_of_inRange {s : State} {x : Reg} (h : s.indexAddr + x.val < 4096) :
    exec (.ldIVx x) s = .next (s.setMem (s.mem.writeBytes s.indexAddr (s.regsUpTo x))) :=
  withAccess_of_inRange (.inr (by omega))

theorem exec_ldVxI_of_inRange {s : State} {x : Reg} (h : s.indexAddr + x.val < 4096) :
    exec (.ldVxI x) s = .next (s.loadRegs s.indexAddr x) := withAccess_of_inRange (.inr (by omega))

/-- The digits as numbers (R86). -/
theorem bcdDigits_toNat (v : Byte) {k : Nat} (hk : k < 3) :
    ((bcdDigits v).getD k 0).toNat = v.toNat / 10 ^ (2 - k) % 10 := by
  have hv : v.toNat < 256 := v.isLt
  match k, hk with
  | 0, _ | 1, _ | 2, _ => simp [bcdDigits]; omega

/-- What memory reads as after `LD B, Vx`: the digits at `I` on, every other byte as before (R34, R86). -/
theorem read_bcd {s : State} (hwf : s.mem.wf = true) (h : s.indexAddr + 2 < 4096) (x : Reg) {k : Nat} (hk : k < 3) :
    ((s.mem.writeBytes s.indexAddr (bcdDigits (s.reg x))).read (s.indexAddr + k)).toNat =
      (s.reg x).toNat / 10 ^ (2 - k) % 10 := by
  rw [Memory.read_writeBytes hwf (by rw [bcdDigits_length]; omega), if_pos (by rw [bcdDigits_length]; omega),
    Nat.add_sub_cancel_left, bcdDigits_toNat _ hk]

/-- What memory reads as after `LD [I], Vx`: `V[r]` at `I + r` (R34, R87). -/
theorem read_bulkStore {s : State} {x r : Reg} (hwf : s.mem.wf = true) (h : s.indexAddr + x.val < 4096) (hr : r ≤ x) :
    (s.mem.writeBytes s.indexAddr (s.regsUpTo x)).read (s.indexAddr + r.val) = s.reg r := by
  have hrx : r.val ≤ x.val := hr
  rw [Memory.read_writeBytes hwf (by rw [State.regsUpTo_length]; omega),
    if_pos (by rw [State.regsUpTo_length]; omega), Nat.add_sub_cancel_left, State.regsUpTo_getD s x r hr]

/-- A store of `len` bytes inside memory leaves every other byte. -/
theorem otherBytes_writeBytes {s : State} {len : Nat} {bs : List Byte} (hwf : s.mem.wf = true)
    (hlen : bs.length = len) (h : s.indexAddr + len ≤ 4096) :
    OtherBytes s.indexAddr len s (s.setMem (s.mem.writeBytes s.indexAddr bs)) := by
  subst hlen
  exact fun a ha => Memory.read_writeBytes_outside hwf h ha

/-- Settles O31: in range the digits are read back by `read_bcd`, else the access takes the fault. -/
theorem bcdStoresThreeDigitsOrFaults : Obligations.BcdStoresThreeDigitsOrFaults := by
  refine fun s x hwf => ⟨fun h => ?_, fun h => ?_⟩
  · have hdigit := fun k hk => read_bcd hwf h x (k := k) hk
    have hv : (s.reg x).toNat < 256 := (s.reg x).isLt
    refine ⟨_, exec_ldBVx_of_inRange h x, (hdigit 0 (by decide)).trans (by omega), hdigit 1 (by decide),
      (hdigit 2 (by decide)).trans (by omega), otherBytes_writeBytes hwf (bcdDigits_length _) h, s.frame_setMem _⟩
  · exact ⟨_, _, withAccess_of_outOfRange (by decide) (by omega), rfl, s.frame_takeFault _⟩

/-- Settles O32: the stored bytes are read back by `read_bulkStore`. -/
theorem bulkStoreWritesTheRegisters : Obligations.BulkStoreWritesTheRegisters := fun s x hwf h =>
  ⟨_, exec_ldIVx_of_inRange h, fun _ hr => read_bulkStore hwf h hr,
    otherBytes_writeBytes hwf (s.regsUpTo_length x) h, s.frame_setMem _⟩

/-- Settles O33: the loaded registers are those of `State.reg_loadRegs`. -/
theorem bulkLoadReadsTheRegisters : Obligations.BulkLoadReadsTheRegisters := fun s x h =>
  ⟨_, exec_ldVxI_of_inRange h, fun r hr => (s.reg_loadRegs _ x r).trans (if_pos hr),
    fun r hr => (s.reg_loadRegs _ x r).trans (if_neg (not_le.2 hr)), s.frame_loadRegs _ x⟩

/-- Settles O34: the load reads what the store wrote at the same addresses (`read_bulkStore`). -/
theorem loadAfterStoreRestoresTheRegisters : Obligations.LoadAfterStoreRestoresTheRegisters := by
  intro s t u x hwf h hstore hmem hi
  rw [exec_ldIVx_of_inRange h] at hstore
  cases hstore
  have hu : u.indexAddr = s.indexAddr := congrArg BitVec.toNat hi
  refine ⟨_, exec_ldVxI_of_inRange (hu ▸ h), fun r hr => ?_⟩
  rw [State.reg_loadRegs, if_pos hr, hu, hmem, State.setMem_mem, read_bulkStore hwf h hr]

/-- Settles O35: each of the three accesses takes the fault of `withAccess_of_outOfRange`. -/
theorem accessOutsideMemoryFaultsBeforeAnyEffect : Obligations.AccessOutsideMemoryFaultsBeforeAnyEffect := by
  refine fun s x y n => ⟨fun hn h => ?_, fun h => ?_, fun h => ?_⟩
  · exact ⟨_, withAccess_of_outOfRange (fun h0 => hn (Fin.ext h0)) h, rfl, s.frame_takeFault _⟩
  · exact ⟨_, withAccess_of_outOfRange (Nat.succ_ne_zero _) (by omega), rfl, s.frame_takeFault _⟩
  · exact ⟨_, withAccess_of_outOfRange (Nat.succ_ne_zero _) (by omega), rfl, s.frame_takeFault _⟩

/-- The word fetched after a store of memory, from the two bytes at `PC` (R32, R39). -/
theorem fetch_setMem {s : State} {m : Memory} {a : Nat} (hpc : s.pc.toNat = a) (ha : a + 1 < 4096) :
    ∃ w, fetch (s.setMem m) = .ok w ∧ w.toNat = (m.read a).toNat * 256 + (m.read (a + 1)).toNat := by
  subst hpc
  exact ⟨_, fetch_of_inRange ha, wordOfBytes_toNat _ _⟩

/-- The word fetched after `LD B, Vx` from the stored digits `k` and `k + 1` (R39, R86). -/
theorem fetch_bcd {s t : State} {x : Reg} {k : Nat} (hwf : s.mem.wf = true) (h : s.indexAddr + 2 < 4096)
    (hk : k + 1 < 3) (hpc : s.pc.toNat = s.indexAddr + k) (hstore : exec (.ldBVx x) s = .next t) :
    ∃ w, fetch t = .ok w ∧
      w.toNat = (s.reg x).toNat / 10 ^ (2 - k) % 10 * 256 + (s.reg x).toNat / 10 ^ (2 - (k + 1)) % 10 := by
  rw [exec_ldBVx_of_inRange h] at hstore
  cases hstore
  obtain ⟨w, hf, hw⟩ := fetch_setMem (m := s.mem.writeBytes s.indexAddr (bcdDigits (s.reg x))) hpc (by omega)
  rw [Nat.add_assoc, read_bcd hwf h x (by omega), read_bcd hwf h x hk] at hw
  exact ⟨w, hf, hw⟩

/-- Settles O36: the fetch reads the two bytes at `PC` (`fetch_setMem`), which are those the store wrote there, registers
by `read_bulkStore` and digits by `fetch_bcd`. -/
theorem storedWordIsTheNextOneFetched : Obligations.StoredWordIsTheNextOneFetched := by
  refine fun s t x hwf => ⟨fun r q hq hqx h hpc hstore => ?_, fun h hpc hstore => ?_, fun h hpc hstore => ?_⟩
  · rw [exec_ldIVx_of_inRange h] at hstore
    cases hstore
    have hqx' : q.val ≤ x.val := hqx
    obtain ⟨w, hf, hw⟩ := fetch_setMem (m := s.mem.writeBytes s.indexAddr (s.regsUpTo x)) hpc (by omega)
    rw [Nat.add_assoc, ← hq, read_bulkStore hwf h (show r.val ≤ x.val by omega), read_bulkStore hwf h hqx] at hw
    exact ⟨w, hf, hw⟩
  · have hv : (s.reg x).toNat < 256 := (s.reg x).isLt
    obtain ⟨w, hf, hw⟩ := fetch_bcd (k := 0) hwf h (by decide) hpc hstore
    exact ⟨w, hf, hw.trans (by omega)⟩
  · obtain ⟨w, hf, hw⟩ := fetch_bcd (k := 1) hwf h (by decide) hpc hstore
    exact ⟨w, hf, hw.trans (by omega)⟩

end Sys2Proof.Machine
end

section
/-! SUPPORT. 42_display.md: the sprite draw. -/

namespace Sys2Proof.Machine

/-- The state after a draw: the sprite's blit on the display and the collision in `VF` (R72, R73). -/
def State.drawn (s : State) (x y : Reg) (n : Height) : State :=
  (s.setDisp (blit s.mem s.indexAddr (s.reg x) (s.reg y) n s.disp).1).setReg 15
    (flagByte (blit s.mem s.indexAddr (s.reg x) (s.reg y) n s.disp).2)

theorem exec_drw_of_inRange {s : State} {n : Height} (h : n = 0 ∨ s.i.toNat + n.val ≤ 4096) (x y : Reg) :
    exec (.drw x y n) s = .next (s.drawn x y n) :=
  withAccess_of_inRange (h.imp_left fun h0 => by rw [h0]; rfl)

theorem State.frame_drawn (s : State) (x y : Reg) (n : Height) : Frame [.regs, .display] s (s.drawn x y n) :=
  (s.frame_setDisp _).trans ((s.setDisp _).frame_setReg 15 _)

theorem State.reg_drawn_other (s : State) {x y r : Reg} {n : Height} (h : r ≠ 15) : (s.drawn x y n).reg r = s.reg r :=
  (State.reg_setReg_other _ _ h).trans (State.reg_setDisp _ _ _)

/-- A covered pixel is toggled (R72). -/
theorem State.pixel_drawn_of_covers {s : State} {x y : Reg} {n : Height} {px : Fin 64} {py : Fin 32}
    (h : SpriteCovers s (s.reg x) (s.reg y) n px py) : (s.drawn x y n).disp.pixel px py = !s.disp.pixel px py := by
  have hblit := (blit_law s.mem s.indexAddr (s.reg x) (s.reg y) n n.isLt s.disp).1 px py
  rw [spriteCovers_iff] at h
  exact hblit.trans (by rw [State.indexAddr_eq, h, Bool.xor_true])

/-- A pixel that is not covered is as before (R72). -/
theorem State.pixel_drawn_of_not_covers {s : State} {x y : Reg} {n : Height} {px : Fin 64} {py : Fin 32}
    (h : ¬ SpriteCovers s (s.reg x) (s.reg y) n px py) : (s.drawn x y n).disp.pixel px py = s.disp.pixel px py := by
  have hblit := (blit_law s.mem s.indexAddr (s.reg x) (s.reg y) n n.isLt s.disp).1 px py
  rw [spriteCovers_iff, Bool.not_eq_true] at h
  exact hblit.trans (by rw [State.indexAddr_eq, h, Bool.xor_false])

/-- The collision of a blit: some covered pixel was on (R73). -/
theorem blit_collision_iff (s : State) (cx cy : Byte) (n : Height) :
    (blit s.mem s.indexAddr cx cy n s.disp).2 = true ↔
      ∃ px py, SpriteCovers s cx cy n px py ∧ s.disp.pixel px py = true := by
  rw [(blit_law s.mem s.indexAddr cx cy n n.isLt s.disp).2]
  simp only [spriteCovers_iff, List.any_eq_true, Bool.and_eq_true, beq_iff_eq, State.indexAddr_eq]
  constructor
  · rintro ⟨p, hp, hbit, hon⟩
    exact ⟨_, _, ⟨p, hp, hbit, rfl⟩, hon⟩
  · rintro ⟨px, py, ⟨p, hp, hbit, ht⟩, hon⟩
    exact ⟨p, hp, hbit, by rwa [ht]⟩

/-- `VF` after a draw is 1 when a covered pixel was on and 0 when none was (R73). -/
theorem State.flag_drawn (s : State) (x y : Reg) (n : Height) :
    (s.drawn x y n).reg 15 = flagByte (blit s.mem s.indexAddr (s.reg x) (s.reg y) n s.disp).2 :=
  State.reg_setReg_same _ _ _

theorem State.flag_drawn_eq_one_iff (s : State) (x y : Reg) (n : Height) :
    (s.drawn x y n).reg 15 = 1 ↔
      ∃ px py, SpriteCovers s (s.reg x) (s.reg y) n px py ∧ s.disp.pixel px py = true := by
  rw [State.flag_drawn, ← blit_collision_iff]
  cases (blit s.mem s.indexAddr (s.reg x) (s.reg y) n s.disp).2 <;> decide

theorem State.flag_drawn_eq_zero {s : State} {x y : Reg} {n : Height}
    (h : ¬ ∃ px py, SpriteCovers s (s.reg x) (s.reg y) n px py ∧ s.disp.pixel px py = true) :
    (s.drawn x y n).reg 15 = 0 := by
  rw [← blit_collision_iff, Bool.not_eq_true] at h
  rw [State.flag_drawn, h, flagByte_false]

/-- Settles O21: in range the draw answers `State.drawn`, whose pixels, flag and frame are the lemmas above. -/
theorem drawTogglesExactlyTheCoveredPixels : Obligations.DrawTogglesExactlyTheCoveredPixels := fun s x y n h =>
  ⟨_, exec_drw_of_inRange h x y, fun _ _ => State.pixel_drawn_of_covers, fun _ _ => State.pixel_drawn_of_not_covers,
    (s.flag_drawn_eq_one_iff x y n).2, State.flag_drawn_eq_zero,
    fun _ hr => s.reg_drawn_other (List.ne_of_not_mem_cons hr), s.frame_drawn x y n⟩

/-- Settles O22: after the first draw the sprite covers the same pixels, since the draw changes neither memory nor `I`
nor the coordinates, so the second toggles each of them back and collides where the first turned a pixel on. -/
theorem drawingTwiceRestoresTheDisplay : Obligations.DrawingTwiceRestoresTheDisplay := by
  intro s t u x y n hx hy h hst htu
  rw [exec_drw_of_inRange h] at hst
  cases hst
  rw [exec_drw_of_inRange (s := s.drawn x y n) h] at htu
  cases htu
  have hcovers : ∀ px py, SpriteCovers (s.drawn x y n) ((s.drawn x y n).reg x) ((s.drawn x y n).reg y) n px py ↔
      SpriteCovers s (s.reg x) (s.reg y) n px py := fun px py => by
    rw [s.reg_drawn_other hx, s.reg_drawn_other hy]
    exact Iff.rfl
  refine ⟨fun px py => ?_, ?_⟩
  · by_cases hc : SpriteCovers s (s.reg x) (s.reg y) n px py
    · rw [State.pixel_drawn_of_covers ((hcovers px py).2 hc), State.pixel_drawn_of_covers hc, Bool.not_not]
    · rw [State.pixel_drawn_of_not_covers (mt (hcovers px py).1 hc), State.pixel_drawn_of_not_covers hc]
  · rw [State.flag_drawn_eq_one_iff]
    refine exists_congr fun px => exists_congr fun py => ?_
    rw [hcovers]
    refine and_congr_right fun hc => ?_
    rw [State.pixel_drawn_of_covers hc, Bool.not_eq_true']

end Sys2Proof.Machine
end

section
/-! SUPPORT. What the execute phase can do, said once for all 35 instructions: which fault it raises and when (R97), and
which parts of the state it may change where it raises none. -/

namespace Sys2Proof.Machine

/-! ### The fault of the execute phase -/

/-- The fault of an access of `len` bytes from `base`, if there is one (R31). -/
def accessFault (s : State) (base len : Nat) : Option Fault :=
  (firstOutOfRange base len).map fun a => .outOfBoundsAccess a s.instrAddr

/-- The fault the execute phase of an instruction raises, if it raises one (R97). -/
def execFault (s : State) : Instr → Option Fault
  | .drw _ _ n => accessFault s s.indexAddr n
  | .ldBVx _ => accessFault s s.indexAddr 3
  | .ldIVx x | .ldVxI x => accessFault s s.indexAddr (x + 1)
  | .addIVx x =>
    if s.i.toNat + (s.reg x).toNat > 0xFFFF then
      some (.outOfBoundsAccess (s.i.toNat + (s.reg x).toNat) s.instrAddr)
    else none
  | .call _ => if s.sp.toNat + 1 ≥ Config.stackSlots then some (.stackOverflow s.instrAddr) else none
  | .ret => if s.sp = 0 then some (.stackUnderflow s.instrAddr) else none
  | .ldFVx x => if (s.reg x).toNat > 15 then some (.invalidDigit (s.reg x) s.instrAddr) else none
  | .skpVx x | .sknpVx x => if (s.reg x).toNat < 16 then none else some (.invalidKey (s.reg x) s.instrAddr)
  | _ => none

/-- The parts of the state that the execute phase of an instruction may change where it raises no fault. -/
def writes : Instr → List Part
  | .sys _ => []
  | .cls => [.display]
  | .ret => [.counter, .pointer]
  | .call _ => [.counter, .pointer, .stack]
  | .jp _ | .jpV0Addr _ | .seVxByte _ _ | .sneVxByte _ _ | .seVxVy _ _ | .sneVxVy _ _ | .skpVx _ | .sknpVx _ =>
    [.counter]
  | .ldVxByte _ _ | .addVxByte _ _ | .ldVxVy _ _ | .orVxVy _ _ | .andVxVy _ _ | .xorVxVy _ _ | .addVxVy _ _
  | .subVxVy _ _ | .shrVx _ _ | .subnVxVy _ _ | .shlVx _ _ | .ldVxDt _ | .ldVxI _ => [.regs]
  | .ldVxK _ => [.regs, .counter]
  | .rnd _ _ => [.regs, .random]
  | .drw _ _ _ => [.regs, .display]
  | .ldIAddr _ | .addIVx _ | .ldFVx _ => [.index]
  | .ldDtVx _ => [.delay]
  | .ldStVx _ => [.sound]
  | .ldBVx _ | .ldIVx _ => [.memory]

/-! ### The execute phase takes its fault or completes -/

/-- Every part but the listed ones reads the same, and memory, where it is not listed, is the same data. -/
def Keeps (changed : List Part) (s t : State) : Prop :=
  Frame changed s t ∧ (Part.memory ∉ changed → t.mem = s.mem)

/-- The outcome `o` from `s` is the fault, where there is one, and else a next state that keeps all but the listed
parts. -/
def Answers (s : State) (changed : List Part) (o : Host.Outcome State Fault Refusal) : Option Fault → Prop
  | some f => o = .next (s.takeFault f)
  | none => ∃ t, o = .next t ∧ Keeps changed s t

section
variable {s t : State} {changed : List Part}

theorem answers_next (hf : Frame changed s t) (hm : t.mem = s.mem) : Answers s changed (.next t) none :=
  ⟨t, rfl, hf, fun _ => hm⟩

theorem answers_raise (f : Word → Fault) : Answers s changed (raise s f) (some (f s.instrAddr)) := rfl

theorem answers_ite {p : Prop} [Decidable p] {f : Word → Fault} (hf : Frame changed s t) (hm : t.mem = s.mem) :
    Answers s changed (if p then raise s f else .next t) (if p then some (f s.instrAddr) else none) := by
  split
  · exact answers_raise f
  · exact answers_next hf hm

theorem answers_withAccess {base len : Nat} (h : Keeps changed s t) :
    Answers s changed (withAccess s base len (.next t)) (accessFault s base len) := by
  unfold withAccess accessFault
  cases firstOutOfRange base len with
  | none => exact ⟨t, rfl, h⟩
  | some a => exact answers_raise _

theorem answers_skipIf (s : State) (c : Bool) : Answers s [.counter] (.next (s.skipIf c)) none :=
  answers_next (s.frame_skipIf c) (s.skipIf_mem c)

theorem answers_keyTest (s : State) (x : Reg) (down : Bool) :
    Answers s [.counter] (keyTest x down s)
      (if (s.reg x).toNat < 16 then none else some (.invalidKey (s.reg x) s.instrAddr)) := by
  split
  case isTrue h =>
    rw [keyTest_of_lt h]
    exact answers_skipIf s _
  case isFalse h =>
    rw [keyTest_of_ge (Nat.not_lt.1 h)]
    exact answers_raise (.invalidKey (s.reg x))

theorem keeps_setMem (s : State) (m : Memory) : Keeps [.memory] s (s.setMem m) :=
  ⟨s.frame_setMem m, fun h => absurd List.mem_cons_self h⟩

end

/-- What the execute phase of each instruction answers: its fault, where it raises one, and else a next state in which
only what the instruction writes can differ. -/
theorem exec_answers (i : Instr) (s : State) : Answers s (writes i) (exec i s) (execFault s i) := by
  cases i with
  | sys => exact answers_next (Frame.refl _ s) rfl
  | cls => exact answers_next (s.frame_setDisp _) rfl
  | jp | jpV0Addr => exact answers_next (s.frame_setPc _) rfl
  | seVxByte | sneVxByte | seVxVy | sneVxVy => exact answers_skipIf s _
  | skpVx | sknpVx => exact answers_keyTest s _ _
  | ldVxByte | addVxByte | ldVxVy | orVxVy | andVxVy | xorVxVy | ldVxDt => exact answers_next (s.frame_setReg _ _) rfl
  | addVxVy | subVxVy | shrVx | subnVxVy | shlVx => exact answers_next (s.frame_writeResultFlag _ _ _) rfl
  | rnd => exact answers_next ((s.frame_setRng _).trans ((s.setRng _).frame_setReg _ _)) rfl
  | ldIAddr => exact answers_next (s.frame_setIndex _) rfl
  | ldDtVx => exact answers_next (s.frame_setDelay _) rfl
  | ldStVx => exact answers_next (s.frame_setSound _) rfl
  | ldVxK x =>
    cases hk : keyChoice s.keys with
    | none =>
      rw [exec_ldVxK_of_none hk]
      exact answers_next ((s.frame_setPc _).mono (by simp [writes])) rfl
    | some k =>
      rw [exec_ldVxK_of_some hk]
      exact answers_next ((s.frame_setReg _ _).mono (by simp [writes])) rfl
  | call => exact answers_ite ((s.frame_push _).trans ((s.push _).frame_setPc _)) rfl
  | ret => exact answers_ite (((s.frame_setPc _).trans (s.setPc _).frame_pop).mono (by simp [writes])) rfl
  | addIVx | ldFVx => exact answers_ite (s.frame_setIndex _) rfl
  | drw x y n => exact answers_withAccess ⟨s.frame_drawn x y n, fun _ => rfl⟩
  | ldBVx | ldIVx => exact answers_withAccess (keeps_setMem s _)
  | ldVxI => exact answers_withAccess ⟨s.frame_loadRegs _ _, fun _ => rfl⟩

theorem exec_of_fault {i : Instr} {s : State} {f : Fault} (h : execFault s i = some f) :
    exec i s = .next (s.takeFault f) := by
  have hanswers := exec_answers i s
  rwa [h] at hanswers

theorem exec_of_no_fault {i : Instr} {s : State} (h : execFault s i = none) :
    ∃ t, exec i s = .next t ∧ Keeps (writes i) s t := by
  have hanswers := exec_answers i s
  rwa [h] at hanswers

/-- The state after an execute phase, read from its answer. -/
theorem exec_next {i : Instr} {s t : State} (h : exec i s = .next t) :
    (∃ f, execFault s i = some f ∧ t = s.takeFault f) ∨ (execFault s i = none ∧ Keeps (writes i) s t) := by
  cases hf : execFault s i with
  | some f =>
    rw [exec_of_fault hf] at h
    cases h
    exact .inl ⟨f, rfl, rfl⟩
  | none =>
    obtain ⟨u, hu, hkeeps⟩ := exec_of_no_fault hf
    rw [hu] at h
    cases h
    exact .inr ⟨rfl, hkeeps⟩

/-- A part that an instruction does not write reads the same after its execute phase, whether it faults or not. -/
theorem same_of_exec {i : Instr} {s t : State} {p : Part} (h : exec i s = .next t) (hi : p ∉ writes i)
    (hp : p ≠ .halt) : p.same s t := by
  rcases exec_next h with ⟨f, -, rfl⟩ | ⟨-, hframe, -⟩
  · exact s.frame_takeFault f p (mt List.mem_singleton.1 hp)
  · exact hframe p hi

/-- Settles O44: the execute phase takes its fault or completes (`exec_answers`), and either is a next state. -/
theorem everyInstructionAnswersANextState : Obligations.EveryInstructionAnswersANextState := by
  intro i s
  cases hf : execFault s i with
  | some f => exact ⟨_, exec_of_fault hf⟩
  | none =>
    obtain ⟨t, ht, -⟩ := exec_of_no_fault hf
    exact ⟨t, ht⟩

/-! ### Faults -/

theorem halt_not_mem_writes (i : Instr) : Part.halt ∉ writes i := by cases i <;> simp [writes]

/-- In a running core `HALT` holds a fault after the execute phase exactly when it raised that fault. -/
theorem halt_exec_iff {i : Instr} {s t : State} (hrun : s.halt = none) (h : exec i s = .next t) (f : Fault) :
    t.halt = some f ↔ execFault s i = some f := by
  rcases exec_next h with ⟨g, hg, rfl⟩ | ⟨hnone, hframe, -⟩
  · rw [hg, State.takeFault_halt]
  · have hhalt : t.halt = s.halt := hframe _ (halt_not_mem_writes i)
    rw [hnone, hhalt, hrun]

theorem accessFault_eq_some {s : State} {base len : Nat} {f : Fault} :
    accessFault s base len = some f ↔
      len ≠ 0 ∧ 4096 < base + len ∧ f = .outOfBoundsAccess (max base 4096) (s.pc - 2) := by
  simp only [accessFault, Option.map_eq_some_iff, firstOutOfRange_eq_some, State.instrAddr_eq]
  constructor
  · rintro ⟨a, ⟨h0, h, rfl⟩, rfl⟩
    exact ⟨h0, h, rfl⟩
  · rintro ⟨h0, h, rfl⟩
    exact ⟨_, ⟨h0, h, rfl⟩, rfl⟩

/-- Settles O41: `HALT` holds the fault of `execFault` (`halt_exec_iff`), which gives each instruction of the table its
own row and no other instruction any. -/
theorem executePhaseFaultsAreThoseOfTheTable : Obligations.ExecutePhaseFaultsAreThoseOfTheTable := by
  intro i s t f hrun h
  rw [halt_exec_iff hrun h]
  cases i with
  | drw => simp [execFault, accessFault_eq_some, State.indexAddr_eq]
  | ldBVx x =>
    have hrange : 4096 < s.i.toNat + 3 ↔ 4096 ≤ s.i.toNat + 2 := Nat.lt_succ_iff
    simp [execFault, accessFault_eq_some, State.indexAddr_eq, hrange]
  | ldIVx x | ldVxI x =>
    have hrange : 4096 < s.i.toNat + (x.val + 1) ↔ 4096 ≤ s.i.toNat + x.val := Nat.lt_succ_iff
    simp [execFault, accessFault_eq_some, State.indexAddr_eq, hrange]
  | call =>
    have hfull : Config.stackSlots ≤ s.sp.toNat + 1 ↔ 15 ≤ s.sp.toNat := Nat.succ_le_succ_iff
    simp [execFault, State.instrAddr_eq, hfull, eq_comm (b := f)]
  | skpVx x | sknpVx x =>
    have hkey : 16 ≤ (s.reg x).toNat ↔ 15 < (s.reg x).toNat := Iff.rfl
    simp [execFault, State.instrAddr_eq, hkey, eq_comm (b := f)]
  | addIVx | ret | ldFVx => simp [execFault, State.instrAddr_eq, eq_comm (b := f)]
  | _ => simp [execFault]

end Sys2Proof.Machine
end

section
/-! SUPPORT. The whole step and the invariant of every run: a step takes a fault before it decodes or is the execute
phase of the decoded instruction, and each keeps the invariant (10_state.md, 60_exceptions.md). -/

namespace Sys2Proof.Machine

/-! ### The two kinds of step of a running core -/

/-- A step of a running core that reaches no execute phase takes a fault of the instruction at `PC`; any other is the
execute phase after the decode advance (R43 to R45). -/
theorem step_of_running {s : State} (hrun : s.halt = none) :
    ((¬ ∃ i, Executes s i) ∧ ∃ f : Fault, f.addr = s.pc ∧ step s = .next (s.takeFault f)) ∨
    ∃ i, Executes s i ∧ step s = exec i s.advance := by
  rcases step_cases s with ⟨f, hf, -⟩ | ⟨-, hpc, hstep⟩ | ⟨-, hpc, w, hw, hdecode⟩
  · rw [hrun] at hf
    cases hf
  · refine .inl ⟨?_, _, rfl, hstep⟩
    rintro ⟨i, -, hlt, -⟩
    omega
  · rw [fetch_of_inRange hpc] at hw
    cases hw
    rcases hdecode with ⟨herr, hstep⟩ | ⟨i, hok, hstep⟩
    · refine .inl ⟨?_, _, rfl, hstep⟩
      rintro ⟨i, -, -, hbytes⟩
      rw [decodeBytes_pair, herr] at hbytes
      cases hbytes
    · exact .inr ⟨i, ⟨hrun, hpc, (decodeBytes_pair _ _ _).2 hok⟩, hstep⟩

/-- A halted core answers its fault (R100). -/
theorem step_of_halted {s : State} {f : Fault} (h : s.halt = some f) : step s = .fault f := by
  simp only [step, h]

theorem step_of_fetchDecode_error {s : State} {f : Fault} (hrun : s.halt = none) (h : fetchDecode s = .error f) :
    step s = .next (s.takeFault f) := by
  simp only [step, hrun, h]

theorem step_of_fetchDecode_ok {s : State} {i : Instr} (hrun : s.halt = none) (h : fetchDecode s = .ok i) :
    step s = exec i s.advance := by
  simp only [step, hrun, h]

/-- A running core answers a next state. -/
theorem exists_step_of_running {s : State} (hrun : s.halt = none) : ∃ t, step s = .next t := by
  rcases step_of_running hrun with ⟨-, f, -, hstep⟩ | ⟨i, -, hstep⟩
  · exact ⟨_, hstep⟩
  · rw [hstep]
    exact everyInstructionAnswersANextState i s.advance

/-- Only a running core answers a next state. -/
theorem halt_eq_none_of_step {s t : State} (h : step s = .next t) : s.halt = none := by
  cases hs : s.halt with
  | none => rfl
  | some f =>
    rw [step_of_halted hs] at h
    cases h

/-! ### Faults are precise -/

/-- A fault of the execute phase records the address of the instruction (R98). -/
theorem execFault_addr {i : Instr} {s : State} {f : Fault} (h : execFault s i = some f) : f.addr = s.pc - 2 := by
  cases i with
  | drw | ldBVx | ldIVx | ldVxI =>
    obtain ⟨-, -, rfl⟩ := accessFault_eq_some.1 h
    rfl
  | addIVx | call | ret | ldFVx | skpVx | sknpVx =>
    simp only [execFault] at h
    split at h <;> cases h
    rfl
  | _ => cases h

/-- Settles O42: a step that faults before it decodes is `State.takeFault` alone, and one that faults in its execute
phase is that after the decode advance (`halt_exec_iff`, `exec_of_fault`). -/
theorem faultsArePrecise : Obligations.FaultsArePrecise := by
  intro s t f hrun hstep hf
  rcases step_of_running hrun with ⟨hnone, g, haddr, hfault⟩ | ⟨i, hexec, hi⟩
  · rw [hfault] at hstep
    cases hstep
    cases hf
    exact ⟨haddr, (s.frame_takeFault _).mono (by simp), fun h => absurd h hnone, fun _ => rfl⟩
  · have hf' := (halt_exec_iff (s := s.advance) hrun (hi ▸ hstep) f).1 hf
    rw [hi, exec_of_fault hf'] at hstep
    cases hstep
    refine ⟨?_, (s.frame_advance.trans (s.advance.frame_takeFault f)).mono (by simp), fun _ => rfl,
      fun h => absurd ⟨i, hexec⟩ h⟩
    rw [execFault_addr hf', State.advance_pc, BitVec.add_sub_cancel]

/-! ### The invariant -/

/-- Taking a fault keeps the invariant where the record holds `PC` or the address 2 before it (R99). -/
theorem State.Inv.takeFault {s : State} {f : Fault} (h : s.Inv) (haddr : s.pc = f.addr ∨ s.pc = f.addr + 2) :
    (s.takeFault f).Inv := by
  obtain ⟨hmem, hpc, hsp, hslots, -⟩ := h
  refine ⟨hmem, hpc, hsp, hslots, fun g hg => ?_⟩
  cases hg
  exact haddr

/-- What holds of the state that a step hands to the execute phase: the invariant, in a running core whose `PC` is 2
beyond an instruction in memory (R43, R45). -/
structure State.Ready (s : State) : Prop where
  inv : s.Inv
  running : s.halt = none
  two_le_pc : 2 ≤ s.pc.toNat
  pc_le : s.pc.toNat ≤ 4096

theorem State.Inv.ready_advance {s : State} {i : Instr} (h : s.Inv) (hexec : Executes s i) : s.advance.Ready := by
  obtain ⟨hmem, -, hsp, hslots, -⟩ := h
  obtain ⟨hrun, hpc, -⟩ := hexec
  have hadvance : s.advance.pc.toNat = s.pc.toNat + 2 := by
    rw [State.advance_pc]
    bv_omega
  refine ⟨⟨hmem, by omega, hsp, hslots, fun f hf => ?_⟩, hrun, by omega, by omega⟩
  rw [State.advance_halt, hrun] at hf
  cases hf

section
variable {i : Instr} {s t : State}

/-! ### Each clause of the invariant along an execute phase -/

theorem mem_of_exec (h : exec i s = .next t) (hi : Part.memory ∉ writes i) : t.mem = s.mem := by
  rcases exec_next h with ⟨f, -, rfl⟩ | ⟨-, -, hmem⟩
  · rfl
  · exact hmem hi

/-- The stores write inside memory, so it stays canonical; no other instruction changes it (R28, R30). -/
theorem mem_wf_of_exec (hwf : s.mem.wf = true) (h : exec i s = .next t) : t.mem.wf = true := by
  cases i with
  | ldBVx x =>
    rcases withAccess_next h with ⟨hr, h⟩ | ⟨-, -, rfl⟩
    · cases h
      exact Memory.wf_writeBytes hwf (by rw [bcdDigits_length]; omega)
    · exact hwf
  | ldIVx x =>
    rcases withAccess_next h with ⟨hr, h⟩ | ⟨-, -, rfl⟩
    · cases h
      exact Memory.wf_writeBytes hwf (by rw [State.regsUpTo_length]; omega)
    · exact hwf
  | _ =>
    rw [mem_of_exec h (by simp [writes])]
    exact hwf

theorem call_of_no_fault {nnn : Addr12} (hnone : execFault s (.call nnn) = none)
    (h : exec (.call nnn) s = .next t) :
    s.sp.toNat + 1 < 16 ∧ t = (s.push s.pc).setPc (addrOperand nnn) := by
  have hroom : s.sp.toNat + 1 < 16 := Nat.succ_lt_succ (by simpa [execFault, Config.stackSlots] using hnone)
  rw [exec_call_of_lt hroom] at h
  cases h
  exact ⟨hroom, rfl⟩

theorem ret_of_no_fault (hnone : execFault s .ret = none) (h : exec .ret s = .next t) :
    s.sp ≠ 0 ∧ t = (s.setPc s.stackTop).pop := by
  have hsp : s.sp ≠ 0 := by simpa [execFault] using hnone
  rw [exec_ret_of_ne hsp] at h
  cases h
  exact ⟨hsp, rfl⟩

/-- Both key tests raise their fault on one condition, so that of `SKP` stands for both. -/
theorem keyTest_of_no_fault {x : Reg} {down : Bool} (hnone : execFault s (.skpVx x) = none)
    (h : keyTest x down s = .next t) : ∃ c, t = s.skipIf c := by
  have hkey : (s.reg x).toNat < 16 := by simpa [execFault] using hnone
  rw [keyTest_of_lt hkey] at h
  cases h
  exact ⟨_, rfl⟩

theorem skipIf_pc_le (hpc : s.pc.toNat ≤ 4096) (c : Bool) : (s.skipIf c).pc.toNat ≤ 0x10FE := by
  rw [State.skipIf_pc]
  cases c <;> simp only [Bool.false_eq_true, if_true, if_false] <;> bv_omega

theorem State.Inv.stackTop_le (h : s.Inv) : s.stackTop.toNat ≤ 4096 := by
  obtain ⟨-, -, hsp, hslots, -⟩ := h
  rw [State.stackTop_of_lt (by omega)]
  exact hslots ⟨s.sp.toNat, by omega⟩

/-- `PC` after an instruction that raises no fault: the jumps reach 0xFFF and 0x10FE, a return at most 4096, a skip at
most 4098, and a wait goes back (R17). -/
theorem pc_le_of_exec (hs : s.Ready) (hnone : execFault s i = none) (h : exec i s = .next t) :
    t.pc.toNat ≤ 0x10FE := by
  obtain ⟨hinv, -, htwo, hpc⟩ := hs
  cases i with
  | jp nnn =>
    cases h
    rw [State.setPc_pc, addrOperand_toNat]
    omega
  | jpV0Addr nnn =>
    cases h
    rw [State.setPc_pc, jpV0Target_toNat]
    omega
  | call nnn =>
    obtain ⟨-, rfl⟩ := call_of_no_fault hnone h
    rw [State.setPc_pc, addrOperand_toNat]
    omega
  | ret =>
    obtain ⟨-, rfl⟩ := ret_of_no_fault hnone h
    exact hinv.stackTop_le.trans (by decide)
  | seVxByte | sneVxByte | seVxVy | sneVxVy =>
    cases h
    exact skipIf_pc_le hpc _
  | skpVx x | sknpVx x =>
    obtain ⟨c, rfl⟩ := keyTest_of_no_fault hnone h
    exact skipIf_pc_le hpc c
  | ldVxK x =>
    cases hk : keyChoice s.keys with
    | none =>
      rw [exec_ldVxK_of_none hk] at h
      cases h
      rw [State.setPc_pc]
      bv_omega
    | some k =>
      rw [exec_ldVxK_of_some hk] at h
      cases h
      exact hpc.trans (by decide)
  | _ =>
    have hkept : t.pc = s.pc := same_of_exec (p := .counter) h (by simp [writes]) (by decide)
    rw [hkept]
    exact hpc.trans (by decide)

/-- `SP` moves up only below 15 and down only above 0 (R20). -/
theorem sp_le_of_exec (hsp : s.sp.toNat ≤ 15) (hnone : execFault s i = none) (h : exec i s = .next t) :
    t.sp.toNat ≤ 15 := by
  cases i with
  | call nnn =>
    obtain ⟨hroom, rfl⟩ := call_of_no_fault hnone h
    rw [State.setPc_sp, State.push_sp_toNat hroom]
    omega
  | ret =>
    obtain ⟨hne, rfl⟩ := ret_of_no_fault hnone h
    rw [State.pop_sp, State.setPc_sp]
    bv_omega
  | _ =>
    have hkept : t.sp = s.sp := same_of_exec (p := .pointer) h (by simp [writes]) (by decide)
    rwa [hkept]

/-- The one value ever pushed is the advanced `PC` of a call, which is at most 4096 (R80). -/
theorem slots_le_of_exec (hs : s.Ready) (hnone : execFault s i = none) (h : exec i s = .next t) (k : Fin 16) :
    t.stack[k].toNat ≤ 4096 := by
  obtain ⟨⟨-, -, -, hslots, -⟩, -, -, hpc⟩ := hs
  cases i with
  | call nnn =>
    obtain ⟨-, rfl⟩ := call_of_no_fault hnone h
    rw [State.setPc_stack, State.push_slot]
    split
    · exact hpc
    · exact hslots k
  | _ =>
    have hkept : t.stack[k] = s.stack[k] := same_of_exec (p := .stack) h (by simp [writes]) (by decide) k
    rw [hkept]
    exact hslots k

/-- An execute phase that a step can reach keeps the invariant: a fault leaves `PC` 2 beyond the recorded address, and
every other answer keeps the core running. -/
theorem State.Ready.inv_of_exec (hs : s.Ready) (h : exec i s = .next t) : t.Inv := by
  rcases exec_next h with ⟨f, hf, rfl⟩ | ⟨hnone, hframe, -⟩
  · refine hs.inv.takeFault (.inr ?_)
    rw [execFault_addr hf, BitVec.sub_add_cancel]
  · obtain ⟨hmem, -, hsp, -, -⟩ := hs.inv
    refine ⟨mem_wf_of_exec hmem h, pc_le_of_exec hs hnone h, sp_le_of_exec hsp hnone h,
      slots_le_of_exec hs hnone h, fun f hf => ?_⟩
    have hrun : t.halt = s.halt := hframe _ (halt_not_mem_writes i)
    rw [hrun, hs.running] at hf
    cases hf

end

/-- Settles O45: a step takes a fault whose record is `PC`, or is an execute phase from a ready state. -/
theorem stepKeepsTheInvariant : Obligations.StepKeepsTheInvariant := by
  intro s t hinv hstep
  rcases step_of_running (halt_eq_none_of_step hstep) with ⟨-, f, haddr, hfault⟩ | ⟨i, hexec, hi⟩
  · rw [hfault] at hstep
    cases hstep
    exact hinv.takeFault (.inl haddr.symm)
  · exact (hinv.ready_advance hexec).inv_of_exec (hi ▸ hstep)

/-! ### The invariant along sessions -/

theorem State.Inv.setKeys {s : State} (h : s.Inv) (keys : BitVec 16) : (s.setKeys keys).Inv := h

theorem State.Inv.tick {s : State} (h : s.Inv) : (tick s).Inv := h

theorem hostStep_inv {s : State} (h : s.Inv) (keys : BitVec 16) : (hostStep keys s).2.Inv := by
  unfold hostStep
  split
  case h_1 t hstep => exact stepKeepsTheInvariant _ _ (h.setKeys keys) hstep
  case h_2 | h_3 => exact h.setKeys keys

/-- Settles O46: a host step by `hostStep_inv`; a tick and a query touch nothing the invariant speaks of. -/
theorem everyHostOperationKeepsTheInvariant : Obligations.EveryHostOperationKeepsTheInvariant := by
  intro op s h
  cases op with
  | step keys => exact hostStep_inv h keys
  | tick => exact h.tick
  | getPixel | width | height => exact h

theorem runSession_inv (ops : List HostOp) {s : State} (h : s.Inv) : (runSession ops s).2.Inv := by
  induction ops generalizing s with
  | nil => exact h
  | cons op ops ih => exact ih (everyHostOperationKeepsTheInvariant op s h)

/-! ### Construction and reset -/

/-- Settles O1: each clause is a field of `State.reset`; from 80 on memory reads as the background beyond the font. -/
theorem resetLeavesTheStatedValues : Obligations.ResetLeavesTheStatedValues := by
  refine ⟨by decide, rfl, rfl, rfl, rfl, rfl, by decide, Display.pixel_blank, rfl, rfl, rfl, rfl, rfl, rfl, ?_⟩
  exact fun a ha => List.getD_eq_default _ _ ha

/-- Settles O2: the memory is empty, the registers are at their bounds or below, and the core runs. -/
theorem resetSatisfiesTheInvariant : Obligations.ResetSatisfiesTheInvariant :=
  ⟨Memory.wf_reset, by decide, by decide, by decide, nofun⟩

section
variable {font program : List Byte}

theorem length_of_fontAdmissible (h : fontAdmissible font = true) : font.length = 80 := by
  rw [fontAdmissible, Bool.and_eq_true, beq_iff_eq] at h
  exact h.1

theorem construct_of_admissible (hf : fontAdmissible font = true) (hp : program.length ≤ 3584) (seed : BitVec 32) :
    construct font program seed =
      some { State.reset with mem := constructMemory font program, rng := seed } := if_pos ⟨hf, hp⟩

theorem construct_of_too_long (hp : 3584 < program.length) (seed : BitVec 32) :
    construct font program seed = none := if_neg fun h => Nat.not_le.2 hp h.2

theorem wf_fontMemory (hf : font.length = 80) : (Memory.writeBytes [] Config.fontBase font).wf = true :=
  Memory.wf_writeBytes Memory.wf_nil (by rw [hf]; decide)

theorem wf_constructMemory (hf : font.length = 80) (hp : program.length ≤ 3584) :
    (constructMemory font program).wf = true :=
  Memory.wf_writeBytes (wf_fontMemory hf) (by unfold Config.progBase; omega)

/-- Memory at construction, byte by byte (R35, R112). -/
theorem read_constructMemory (hf : font.length = 80) (hp : program.length ≤ 3584) (a : Nat) :
    (constructMemory font program).read a =
      if a < 80 then font.getD a 0
      else if 512 ≤ a ∧ a < 512 + program.length then program.getD (a - 512) 0 else 0 := by
  rw [constructMemory, Memory.read_writeBytes (wf_fontMemory hf) (by unfold Config.progBase; omega),
    Memory.read_writeBytes Memory.wf_nil (by rw [hf]; decide), hf]
  unfold Config.progBase Config.fontBase
  by_cases hfont : a < 80
  · rw [if_neg (by omega), if_pos (by omega), if_pos hfont, Nat.sub_zero]
  · rw [if_neg hfont, if_neg (show ¬ (0 ≤ a ∧ a < 0 + 80) by omega)]
    congr 1
    exact List.getD_eq_default _ _ (Nat.not_lt.1 hfont)

end

/-- Settles O3: what construction puts in memory is `read_constructMemory`, and every other field is that of
`State.reset`. -/
theorem constructionLoadsFontProgramAndSeed : Obligations.ConstructionLoadsFontProgramAndSeed := by
  obtain ⟨hregs, hi, hpc, hdt, hst, hsp, hslots, hpixels, hrun, -⟩ := resetLeavesTheStatedValues
  refine fun font program seed => ⟨fun hf hp => ?_, fun hp => construct_of_too_long hp seed⟩
  exact ⟨_, construct_of_admissible hf hp seed, read_constructMemory (length_of_fontAdmissible hf) hp,
    hregs, hi, hpc, hdt, hst, hsp, hslots, hpixels, rfl, hrun⟩

theorem construct_inv {font program : List Byte} {seed : BitVec 32} {s : State}
    (h : construct font program seed = some s) : s.Inv := by
  unfold construct at h
  split at h
  case isTrue hadm =>
    cases h
    obtain ⟨-, hpc, hsp, hslots, hhalt⟩ := resetSatisfiesTheInvariant
    exact ⟨wf_constructMemory (length_of_fontAdmissible hadm.1) hadm.2, hpc, hsp, hslots, hhalt⟩
  case isFalse => cases h

/-- Settles O47: every construction has the invariant and every session keeps it. -/
theorem everySessionKeepsTheInvariant : Obligations.EverySessionKeepsTheInvariant :=
  fun _ _ _ _ ops h => runSession_inv ops (construct_inv h)

end Sys2Proof.Machine
end

section
/-! SUPPORT. Which instructions write which part of the state, read from `writes`, and `VF` (10_state.md). -/

namespace Sys2Proof.Machine

section
variable {i : Instr} {s t : State}

/-! ### The writers of each part, from the table `writes` -/

theorem display_mem_writes (h : Part.display ∈ writes i) : i = .cls ∨ ∃ x y n, i = .drw x y n := by
  cases i <;> simp [writes] at h ⊢

theorem memory_mem_writes (h : Part.memory ∈ writes i) : ∃ x, i = .ldBVx x ∨ i = .ldIVx x := by
  cases i <;> simp [writes] at h ⊢

theorem random_mem_writes (h : Part.random ∈ writes i) : ∃ x kk, i = .rnd x kk := by
  cases i <;> simp [writes] at h ⊢

theorem pointer_mem_writes (h : Part.pointer ∈ writes i) : i = .ret ∨ ∃ nnn, i = .call nnn := by
  cases i <;> simp [writes] at h ⊢

theorem stack_mem_writes (h : Part.stack ∈ writes i) : ∃ nnn, i = .call nnn := by
  cases i <;> simp [writes] at h ⊢

theorem index_mem_writes (h : Part.index ∈ writes i) :
    (∃ nnn, i = .ldIAddr nnn) ∨ (∃ x, i = .addIVx x) ∨ ∃ x, i = .ldFVx x := by
  cases i <;> simp [writes] at h ⊢

theorem delay_mem_writes (h : Part.delay ∈ writes i) : ∃ x, i = .ldDtVx x := by
  cases i <;> simp [writes] at h ⊢

theorem sound_mem_writes (h : Part.sound ∈ writes i) : ∃ x, i = .ldStVx x := by
  cases i <;> simp [writes] at h ⊢

/-- A part that reads differently after an execute phase is one that the instruction writes. -/
theorem mem_writes_of_not_same {p : Part} (h : exec i s = .next t) (hp : p ≠ .halt) (hdiff : ¬ p.same s t) :
    p ∈ writes i := by
  by_contra hi
  exact hdiff (same_of_exec h hi hp)

/-! ### The writers of `VF` -/

/-- An instruction outside the list of `mayWriteVF` leaves `VF`: it writes no register, or another one. -/
theorem flag_of_exec (h : exec i s = .next t) (hi : mayWriteVF i = false) : t.reg 15 = s.reg 15 := by
  cases i with
  | addVxVy | subVxVy | subnVxVy | shrVx | shlVx | drw => cases hi
  | ldVxByte x | addVxByte x | ldVxVy x | orVxVy x | andVxVy x | xorVxVy x | ldVxDt x =>
    cases h
    exact s.reg_setReg_other _ (Ne.symm (beq_eq_false_iff_ne.1 hi))
  | rnd x =>
    cases h
    exact (s.setRng _).reg_setReg_other _ (Ne.symm (beq_eq_false_iff_ne.1 hi))
  | ldVxK x =>
    cases hk : keyChoice s.keys with
    | none =>
      rw [exec_ldVxK_of_none hk] at h
      cases h
      rfl
    | some k =>
      rw [exec_ldVxK_of_some hk] at h
      cases h
      exact s.reg_setReg_other _ (Ne.symm (beq_eq_false_iff_ne.1 hi))
  | ldVxI x =>
    rcases withAccess_next h with ⟨-, h⟩ | ⟨-, -, rfl⟩
    · cases h
      have hx : ¬ (15 : Reg) ≤ x := fun hle => beq_eq_false_iff_ne.1 hi (le_antisymm (Fin.le_last x) hle)
      rw [State.reg_loadRegs, if_neg hx]
    · rfl
  | _ => exact same_of_exec (p := .regs) h (by simp [writes]) (by decide) 15

end

/-! ### The statements -/

/-- Settles O48: a pixel that changed is of a part that the instruction writes, and that part has two writers. -/
theorem onlyClearAndDrawChangeTheDisplay : Obligations.OnlyClearAndDrawChangeTheDisplay :=
  fun _ _ _ px py h hdiff =>
    display_mem_writes (mem_writes_of_not_same h (by decide) fun hsame => hdiff (hsame px py))

/-- Settles O49: a byte that changed is of a part that the instruction writes, and that part has two writers. -/
theorem onlyTheTwoStoresChangeMemory : Obligations.OnlyTheTwoStoresChangeMemory :=
  fun _ _ _ a h hdiff => memory_mem_writes (mem_writes_of_not_same h (by decide) fun hsame => hdiff (hsame a))

/-- Settles O52: each of the three is a part that the instruction writes where it changed. -/
theorem onlyTheirOwnInstructionsWriteIndexAndTimers : Obligations.OnlyTheirOwnInstructionsWriteIndexAndTimers :=
  fun _ _ _ h => ⟨fun hdiff => index_mem_writes (mem_writes_of_not_same h (by decide) hdiff),
    fun hdiff => delay_mem_writes (mem_writes_of_not_same h (by decide) hdiff),
    fun hdiff => sound_mem_writes (mem_writes_of_not_same h (by decide) hdiff)⟩

/-- Settles O53, the contraposition of `flag_of_exec`. -/
theorem flagRegisterHasOnlyItsOwnWriters : Obligations.FlagRegisterHasOnlyItsOwnWriters := by
  intro i s t h hdiff
  by_contra hi
  exact hdiff (flag_of_exec h (Bool.not_eq_true _ ▸ hi))

end Sys2Proof.Machine
end

section
/-! SUPPORT. What no instruction but its own readers depends on: the execute phase commutes with an update of the random
source, of the stack, of the key-down bits and of the sound timer. -/

namespace Sys2Proof.Machine

/-- The outcome with the next state, where there is one, updated. -/
def mapNext (u : State → State) : Host.Outcome State Fault Refusal → Host.Outcome State Fault Refusal
  | .next t => .next (u t)
  | .fault f => .fault f
  | .refused r => .refused r

/-- An update that touches neither `PC` nor `HALT`, so that skips and faults commute with it. -/
structure Bystander (u : State → State) : Prop where
  pc : ∀ s, (u s).pc = s.pc
  setPc : ∀ s w, u (s.setPc w) = (u s).setPc w
  takeFault : ∀ s f, u (s.takeFault f) = (u s).takeFault f

section
variable {u : State → State} (hu : Bystander u) {s : State} {k k' : Host.Outcome State Fault Refusal}
include hu

theorem Bystander.raise (f : Word → Fault) : raise (u s) f = mapNext u (raise s f) := by
  rw [raise_eq, raise_eq, mapNext, hu.takeFault, hu.pc]

theorem Bystander.skipIf (c : Bool) : .next ((u s).skipIf c) = mapNext u (.next (s.skipIf c)) := by
  cases c with
  | false => rfl
  | true =>
    have hskip : ∀ q : State, q.skipIf true = q.setPc (q.pc + 2) := fun _ => rfl
    rw [hskip, hskip, mapNext, hu.setPc, hu.pc]

theorem Bystander.ite {p : Prop} [Decidable p] (f : Word → Fault) (hk : k' = mapNext u k) :
    (if p then Machine.raise (u s) f else k') = mapNext u (if p then Machine.raise s f else k) := by
  split
  · exact hu.raise f
  · exact hk

theorem Bystander.dite {p : Prop} [Decidable p] (f : Word → Fault) (c : p → Bool) :
    (if h : p then .next ((u s).skipIf (c h)) else Machine.raise (u s) f) =
      mapNext u (if h : p then .next (s.skipIf (c h)) else Machine.raise s f) := by
  split
  · exact hu.skipIf _
  · exact hu.raise f

theorem Bystander.withAccess (base len : Nat) (hk : k' = mapNext u k) :
    withAccess (u s) base len k' = mapNext u (withAccess s base len k) := by
  unfold Machine.withAccess
  cases firstOutOfRange base len with
  | none => exact hk
  | some a => exact hu.raise _

end

/-- An overwrite of a part of the state that few instructions see: the random source, the call stack, the key-down bits
or the sound timer. -/
inductive Aside where
  | random (r : BitVec 32)
  | stack (p : Byte) (v : Vector Word 16)
  | keys (k : BitVec 16)
  | sound (b : Byte)

def Aside.apply : Aside → State → State
  | .random r, s => s.setRng r
  | .stack p v, s => s.setStack p v
  | .keys k, s => s.setKeys k
  | .sound b, s => s.setSound b

/-- Does the execute phase of this instruction read or write the overwritten part? -/
def Aside.seenBy : Aside → Instr → Bool
  | .random _, .rnd _ _ => true
  | .stack _ _, .ret => true
  | .stack _ _, .call _ => true
  | .keys _, i => readsKeys i
  | .sound _, .ldStVx _ => true
  | _, _ => false

theorem Aside.bystander (a : Aside) : Bystander a.apply := by
  cases a <;> exact ⟨fun _ => rfl, fun _ _ => rfl, fun _ _ => rfl⟩

theorem Aside.apply_setReg (a : Aside) (s : State) (x : Reg) (b : Byte) :
    a.apply (s.setReg x b) = (a.apply s).setReg x b := by cases a <;> rfl

/-- A wait for a key reads the key-down bits only. -/
theorem exec_ldVxK_aside {a : Aside} {s : State} (hkeys : (a.apply s).keys = s.keys) (x : Reg) :
    exec (.ldVxK x) (a.apply s) = mapNext a.apply (exec (.ldVxK x) s) := by
  cases hk : keyChoice s.keys with
  | none =>
    rw [exec_ldVxK_of_none hk, exec_ldVxK_of_none (hkeys.symm ▸ hk), mapNext, a.bystander.setPc, a.bystander.pc]
  | some k => rw [exec_ldVxK_of_some hk, exec_ldVxK_of_some (hkeys.symm ▸ hk), mapNext, a.apply_setReg]

/-- An instruction that does not see the overwritten part does the same whatever it holds, and leaves it. -/
theorem exec_aside {a : Aside} {i : Instr} (hi : a.seenBy i = false) (s : State) :
    exec i (a.apply s) = mapNext a.apply (exec i s) := by
  have hu := a.bystander
  cases i with
  | seVxByte | sneVxByte | seVxVy | sneVxVy => cases a <;> exact hu.skipIf _
  | addIVx | ldFVx => cases a <;> exact hu.ite _ rfl
  | drw | ldBVx | ldIVx | ldVxI => cases a <;> exact hu.withAccess _ _ rfl
  | call | ret =>
    cases a with
    | stack => cases hi
    | _ => exact hu.ite _ rfl
  | skpVx | sknpVx =>
    cases a with
    | keys => cases hi
    | _ => exact hu.dite _ _
  | ldVxK x =>
    cases a with
    | keys => cases hi
    | _ => exact exec_ldVxK_aside rfl x
  | rnd =>
    cases a with
    | random => cases hi
    | _ => rfl
  | ldStVx =>
    cases a with
    | sound => cases hi
    | _ => rfl
  | _ => cases a <;> rfl

/-- The same, read from an answer. -/
theorem exec_aside_next {a : Aside} {i : Instr} {s t : State} (hi : a.seenBy i = false) (h : exec i s = .next t) :
    exec i (a.apply s) = .next (a.apply t) := by
  rw [exec_aside hi, h, mapNext]

theorem random_not_seen {i : Instr} (hi : ∀ x kk, i ≠ .rnd x kk) (r : BitVec 32) :
    (Aside.random r).seenBy i = false := by
  cases i with
  | rnd x kk => exact absurd rfl (hi x kk)
  | _ => rfl

theorem stack_not_seen {i : Instr} (hret : i ≠ .ret) (hcall : ∀ nnn, i ≠ .call nnn) (p : Byte)
    (v : Vector Word 16) : (Aside.stack p v).seenBy i = false := by
  cases i with
  | ret => exact absurd rfl hret
  | call nnn => exact absurd rfl (hcall nnn)
  | _ => rfl

/-- Settles O50: the source is written by `RND` alone (`random_mem_writes`) and seen by no other (`exec_aside_next`). -/
theorem onlyRandomReadsOrWritesTheSource : Obligations.OnlyRandomReadsOrWritesTheSource := by
  intro i s t hi h
  have hrandom : Part.random ∉ writes i := fun hmem => by
    obtain ⟨x, kk, rfl⟩ := random_mem_writes hmem
    exact hi x kk rfl
  exact ⟨same_of_exec h hrandom (by decide), fun r => exec_aside_next (random_not_seen hi r) h⟩

/-- A call writes slot `SP + 1` only, so never slot 0 (R21, R80). -/
theorem slot_ne_zero_of_call {nnn : Addr12} {s t : State} {k : Fin 16} (h : exec (.call nnn) s = .next t)
    (hdiff : t.stack[k] ≠ s.stack[k]) : k ≠ 0 := by
  rintro rfl
  by_cases hroom : s.sp.toNat + 1 < 16
  · rw [exec_call_of_lt hroom] at h
    cases h
    have hzero : (0 : Fin 16).val ≠ s.sp.toNat + 1 := Nat.zero_ne_add_one _
    rw [State.setPc_stack, State.push_slot, if_neg hzero] at hdiff
    exact hdiff rfl
  · rw [exec_call_of_ge (Nat.not_lt.1 hroom)] at h
    cases h
    exact hdiff rfl

/-- Settles O51: the writers are `pointer_mem_writes` and `stack_mem_writes`, and no other instruction sees the stack
(`exec_aside_next`). -/
theorem onlyCallAndReturnUseTheStack : Obligations.OnlyCallAndReturnUseTheStack := by
  intro i s t h
  refine ⟨fun hdiff => pointer_mem_writes (mem_writes_of_not_same h (by decide) hdiff), fun k hdiff => ?_,
    fun hret hcall p v => exec_aside_next (stack_not_seen hret hcall p v) h⟩
  obtain ⟨nnn, rfl⟩ := stack_mem_writes (mem_writes_of_not_same h (by decide) fun hsame => hdiff (hsame k))
  exact ⟨slot_ne_zero_of_call h hdiff, nnn, rfl⟩

/-- Settles O54: `exec_aside_next` for the key-down bits, which an instruction sees exactly when it reads them. -/
theorem keysReachOnlyTheKeyInstructions : Obligations.KeysReachOnlyTheKeyInstructions :=
  fun _ _ _ keys hi h => exec_aside_next (a := .keys keys) hi h

/-! ### The sound timer over sessions -/

/-- Whatever `ST` holds, an instruction does the same but for `ST`: only `LD ST, Vx` writes it and none reads it. -/
theorem exec_setSound (i : Instr) (s : State) (b : Byte) :
    ∃ c, exec i (s.setSound b) = mapNext (fun t => t.setSound c) (exec i s) := by
  cases i with
  | ldStVx x => exact ⟨s.reg x, rfl⟩
  | _ => exact ⟨b, exec_aside (a := .sound b) rfl s⟩

theorem step_setSound (s : State) (b : Byte) :
    ∃ c, step (s.setSound b) = mapNext (fun t => t.setSound c) (step s) := by
  cases hs : s.halt with
  | some f =>
    rw [step_of_halted hs]
    exact ⟨b, step_of_halted (s := s.setSound b) hs⟩
  | none =>
    cases hd : fetchDecode s with
    | error f =>
      rw [step_of_fetchDecode_error hs hd]
      exact ⟨b, step_of_fetchDecode_error (s := s.setSound b) hs hd⟩
    | ok i =>
      obtain ⟨c, hc⟩ := exec_setSound i s.advance b
      rw [step_of_fetchDecode_ok hs hd]
      exact ⟨c, (step_of_fetchDecode_ok (s := s.setSound b) hs hd).trans hc⟩

/-- A host step reports the same and leaves the same state but for `ST`. -/
theorem hostStep_setSound (keys : BitVec 16) (s : State) (b : Byte) :
    ∃ c, hostStep keys (s.setSound b) = ((hostStep keys s).1, (hostStep keys s).2.setSound c) := by
  obtain ⟨c, hc⟩ := step_setSound (s.setKeys keys) b
  have hkeys : (s.setSound b).setKeys keys = (s.setKeys keys).setSound b := rfl
  unfold hostStep
  rw [hkeys, hc]
  cases step (s.setKeys keys) with
  | next t => exact ⟨c, rfl⟩
  | fault f => exact ⟨b, rfl⟩
  | refused r => exact ⟨b, rfl⟩

/-- Every host operation answers the same and leaves the same state but for `ST`. -/
theorem hostApply_setSound (op : HostOp) (s : State) (b : Byte) :
    ∃ c, hostApply op (s.setSound b) = ((hostApply op s).1, (hostApply op s).2.setSound c) := by
  cases op with
  | step keys =>
    obtain ⟨c, hc⟩ := hostStep_setSound keys s b
    exact ⟨c, by rw [hostApply, hc]; rfl⟩
  | tick => exact ⟨countDown b, rfl⟩
  | getPixel | width | height => exact ⟨b, rfl⟩

/-- Settles O55: each operation answers the same and passes on states that again differ in `ST` only
(`hostApply_setSound`), by induction on the operations. -/
theorem soundTimerInfluencesNothingObservable : Obligations.SoundTimerInfluencesNothingObservable := by
  intro ops
  induction ops with
  | nil => exact fun _ _ => rfl
  | cons op ops ih =>
    intro s b
    obtain ⟨c, hc⟩ := hostApply_setSound op s b
    rw [runSession, runSession, hc, ih]

end Sys2Proof.Machine
end

section
/-! SUPPORT. 60_exceptions.md: a halted core, the outcome of a host step, and the display port. -/

namespace Sys2Proof.Machine

/-! ### A halted core -/

theorem hostStep_of_halted {s : State} {f : Fault} (h : s.halt = some f) (keys : BitVec 16) :
    hostStep keys s = (.fault f, s.setKeys keys) := by
  simp only [hostStep, step_of_halted (s := s.setKeys keys) h]

/-- One host operation on a halted core (R92, R100). -/
theorem frame_hostApply_of_halted {s : State} {f : Fault} (h : s.halt = some f) (op : HostOp) :
    Frame [.delay, .sound, .keys] s (hostApply op s).2 := by
  cases op with
  | step keys =>
    rw [hostApply, hostStep_of_halted h]
    exact (s.frame_setKeys keys).mono (by simp)
  | tick => exact (frame_tick s).mono (by simp)
  | getPixel | width | height => exact Frame.refl _ s

/-- A session of a halted core: each operation leaves `HALT`, so the next one starts halted too. -/
theorem frame_runSession_of_halted (ops : List HostOp) {s : State} {f : Fault} (h : s.halt = some f) :
    Frame [.delay, .sound, .keys] s (runSession ops s).2 := by
  induction ops generalizing s with
  | nil => exact Frame.refl _ s
  | cons op ops ih =>
    have hop := frame_hostApply_of_halted h op
    have hhalt : (hostApply op s).2.halt = s.halt := hop .halt (by decide)
    exact (hop.trans (ih (hhalt.trans h))).mono (by simp)

/-- Settles O43: a halted core's step, its host step, and `frame_runSession_of_halted`. -/
theorem haltIsFinal : Obligations.HaltIsFinal := fun _ _ h =>
  ⟨step_of_halted h, fun keys => by rw [hostStep_of_halted h], fun ops => frame_runSession_of_halted ops h⟩

/-! ### The outcome of a host step -/

section
variable {s t : State} {keys : BitVec 16}

theorem hostStep_of_next (h : step (s.setKeys keys) = .next t) :
    hostStep keys s = (reportOf (s.setKeys keys) t, t) := by
  simp only [hostStep, h]

theorem reportOf_of_halted {f : Fault} (h : t.halt = some f) : reportOf s t = .fault f := by
  simp only [reportOf, h]

theorem reportOf_of_fetchDecode {i : Instr} (h : t.halt = none) (hd : fetchDecode s = .ok i) :
    reportOf s t = if waitsForKey i s.keys then .awaitingKey s.pc i else .executed s.pc i := by
  simp only [reportOf, h, hd]

/-- A step that ends without a fault decoded an instruction. -/
theorem exists_fetchDecode_of_step (hstep : step s = .next t) (ht : t.halt = none) : ∃ i, fetchDecode s = .ok i := by
  cases hd : fetchDecode s with
  | ok i => exact ⟨i, rfl⟩
  | error f =>
    rw [step_of_fetchDecode_error (halt_eq_none_of_step hstep) hd] at hstep
    cases hstep
    cases ht

theorem fetchDecode_of_executes {i : Instr} (h : Executes s i) : fetchDecode s = .ok i := by
  obtain ⟨-, hpc, hbytes⟩ := h
  simp only [fetchDecode, fetch_of_inRange hpc, (decodeBytes_pair _ _ _).1 hbytes]

/-- An instruction waits exactly when it is `LD Vx, K` and no key is down (R96). -/
theorem waitsForKey_iff {i : Instr} : waitsForKey i keys = true ↔ keys = 0 ∧ ∃ x, i = .ldVxK x := by
  cases i with
  | ldVxK x =>
    rw [waitsForKey, Option.isNone_iff_eq_none]
    refine ⟨fun h => ⟨?_, x, rfl⟩, fun h => by rw [h.1]; exact keyChoice_zero⟩
    by_contra hne
    obtain ⟨k, hk⟩ := keyChoice_of_ne_zero hne
    rw [h] at hk
    cases hk
  | _ => simp [waitsForKey]

/-- A step that waits for a key changes nothing: the decode advance is undone (R96). -/
theorem step_of_wait {x : Reg} (hexec : Executes s (.ldVxK x)) (hkeys : s.keys = 0) : step s = .next s := by
  have hnone : keyChoice s.advance.keys = none := by
    rw [State.advance_keys, hkeys]
    exact keyChoice_zero
  have hback : s.advance.setPc (s.advance.pc - 2) = s := by
    rw [State.advance_pc, BitVec.add_sub_cancel]
    rfl
  rw [step_of_executes hexec, exec_ldVxK_of_none hnone, hback]

/-- What a host step answers: the fault that is in `HALT` after it, or no fault is there and the record of the executed
instruction is answered (R105). -/
theorem hostStep_cases (keys : BitVec 16) (s : State) :
    (∃ f, (hostStep keys s).1 = .fault f ∧ (hostStep keys s).2.halt = some f) ∨
    ((hostStep keys s).2.halt = none ∧ ∃ i, fetchDecode (s.setKeys keys) = .ok i ∧
      (hostStep keys s).1 = if waitsForKey i keys then .awaitingKey s.pc i else .executed s.pc i) := by
  cases hs : s.halt with
  | some f =>
    rw [hostStep_of_halted hs]
    exact .inl ⟨f, rfl, hs⟩
  | none =>
    obtain ⟨t, hstep⟩ := exists_step_of_running (s := s.setKeys keys) hs
    rw [hostStep_of_next hstep]
    cases ht : t.halt with
    | some f => exact .inl ⟨f, reportOf_of_halted ht, rfl⟩
    | none =>
      obtain ⟨i, hd⟩ := exists_fetchDecode_of_step hstep ht
      exact .inr ⟨rfl, i, hd, reportOf_of_fetchDecode ht hd⟩

end

/-- Settles O56: the two kinds of answer are those of `hostStep_cases`; the record is that of the instruction the step
executed, and the wait leaves the state (`step_of_wait`). -/
theorem hostStepReportsItsOutcome : Obligations.HostStepReportsItsOutcome := by
  intro s keys
  rcases hostStep_cases keys s with ⟨f, hreport, hhalt⟩ | ⟨hhalt, i, hd, hreport⟩
  · rw [hreport, hhalt]
    refine ⟨fun g => ?_, fun i _ hnone => ?_, fun r => nofun⟩
    · rw [StepReport.fault.injEq, Option.some.injEq]
    · cases hnone
  · rw [hreport]
    refine ⟨fun f => ?_, fun j hexec _ => ?_, fun r => ?_⟩
    · rw [hhalt]
      split <;> simp
    · have hexec' : Executes (s.setKeys keys) j := hexec
      rw [fetchDecode_of_executes hexec'] at hd
      cases hd
      refine ⟨fun hwait => ⟨if_pos (waitsForKey_iff.2 hwait), ?_⟩, fun hgo => if_neg (mt waitsForKey_iff.1 hgo)⟩
      obtain ⟨hkeys, x, rfl⟩ := hwait
      rw [hostStep_of_next (step_of_wait hexec' hkeys)]
    · split <;> nofun

/-! ### The display port -/

/-- Settles O57: the two bounds checks of `getPixel`, passed or failed. -/
theorem displayPortReadsThePixel : Obligations.DisplayPortReadsThePixel := by
  intro s x y
  refine ⟨fun hx hy => ?_, fun hout => ?_, rfl, rfl, rfl⟩
  · rw [getPixel, dif_pos hx, dif_pos hy]
  · unfold getPixel
    split
    · exact dif_neg (by omega)
    · rfl

end Sys2Proof.Machine
end
